-- ==== Sys2Proof/Word.lean ====
section
/-! DEFINITION. The two word sizes of the hardware (00_scope.md R6: data width 8, address width 16).
Both wrap by themselves: BitVec addition is modulo 2^n, as 00_scope.md R8 reads `+` and `-`. -/

namespace Sys2Proof

/-- A data byte: A, X, Y, SP, a memory byte, an opcode byte, an operand byte (R6). -/
abbrev Byte := BitVec 8

/-- A bus address, a program counter value (R6). -/
abbrev Addr := BitVec 16

end Sys2Proof
end

