-- ==== Sys2Proof/Machine/Bits.lean ====
section
/-! DEFINITION. The bit-field, byte-order and extension helpers of 00_scope.md R8, R9 and R10. -/

namespace Sys2Proof.Machine

/-- `h:l` of R8, h * 256 + l: the 16-bit quantity whose high byte is `h` (20_memory.md R54). -/
def join (h l : Byte) : Addr := h ++ l

/-- `v[15:8]` of R8, which is also the page number of an address (R13). -/
def hiByte (v : Addr) : Byte := v.extractLsb' 8 8

/-- `v[7:0]` of R8. -/
def loByte (v : Addr) : Byte := v.extractLsb' 0 8

/-- `zext_16(v)` of R9. -/
def zext16 (v : Byte) : Addr := v.setWidth 16

/-- `sext_16(v)` of R9. -/
def sext16 (v : Byte) : Addr := v.signExtend 16

/-- `pagecross(a, b)` of R10. -/
def pageCross (a b : Addr) : Bool := hiByte a != hiByte b

/-- The stack address of a pointer value, `0x0100 + s` (10_state.md R22, 20_memory.md R57). -/
def stackAddr (s : Byte) : Addr := join 0x01 s

/-- A byte that holds `mask` where the bit is set and 0 where it is not. -/
def bitAt (bit : Bool) (mask : Byte) : Byte := if bit then mask else 0x00

end Sys2Proof.Machine
end

