-- ==== Sys2Proof/Syntax/Forms.lean ====
section
/-! DEFINITION. The vocabulary of the syntax: instruction kinds (30_encoding.md R87), addressing modes (R82),
and the operand forms an instruction can carry (40_addressing_resolver.md R112 to R125). -/

namespace Sys2Proof

/-- The 56 instruction kinds of 30_encoding.md R87 and the sentinel UNDEFINED of R85. -/
inductive Kind where
  | adc | and | asl | bcc | bcs | beq | bit | bmi | bne | bpl | brk | bvc | bvs | clc
  | cld | cli | clv | cmp | cpx | cpy | dec | dex | dey | eor | inc | inx | iny | jmp
  | jsr | lda | ldx | ldy | lsr | nop | ora | pha | php | pla | plp | rol | ror | rti
  | rts | sbc | sec | sed | sei | sta | stx | sty | tax | tay | tsx | txa | txs | tya
  | undefined
  deriving DecidableEq, Repr

/-- The 13 addressing modes of 30_encoding.md R82, by the spec's abbreviations, and the sentinel UNDEFINED. -/
inductive Mode where
  | acc | imm | imp | zp | zpx | zpy | abs | abx | aby | rel | ind | izx | izy
  | undefined
  deriving DecidableEq, Repr

/-- An operand in memory: the eight modes whose result is `Addr(a)` and that name data
(40_addressing_resolver.md R116 to R121, R124, R125). -/
inductive MemOperand where
  /-- Zeropage (R116). -/
  | zp (d : Byte)
  /-- Zeropage-X (R117). -/
  | zpx (d : Byte)
  /-- Zeropage-Y (R118). -/
  | zpy (d : Byte)
  /-- Absolute (R119). -/
  | abs (a : Addr)
  /-- Absolute-X (R120). -/
  | abx (base : Addr)
  /-- Absolute-Y (R121). -/
  | aby (base : Addr)
  /-- X-Indirect (R124). -/
  | izx (d : Byte)
  /-- Indirect-Y (R125). -/
  | izy (d : Byte)
  deriving DecidableEq, Repr

/-- An operand that is only read: `Imm(v)` or `Addr(a)` (R112, R115). -/
inductive Source where
  | imm (v : Byte)
  | mem (m : MemOperand)
  deriving DecidableEq, Repr

/-- An operand that is read and written back: `Acc` or `Addr(a)` (R112, R114, 43_shift_rotate.md R190). -/
inductive Place where
  | acc
  | mem (m : MemOperand)
  deriving DecidableEq, Repr

/-- The operand of JMP: Absolute (R119) or Indirect (R123). -/
inductive JumpOperand where
  | abs (a : Addr)
  | ind (ptr : Addr)
  deriving DecidableEq, Repr

/-- The mode an operand form belongs to. -/
def MemOperand.mode : MemOperand → Mode
  | .zp _ => .zp
  | .zpx _ => .zpx
  | .zpy _ => .zpy
  | .abs _ => .abs
  | .abx _ => .abx
  | .aby _ => .aby
  | .izx _ => .izx
  | .izy _ => .izy

/-- The mode an operand form belongs to. -/
def Source.mode : Source → Mode
  | .imm _ => .imm
  | .mem m => m.mode

/-- The mode an operand form belongs to. -/
def Place.mode : Place → Mode
  | .acc => .acc
  | .mem m => m.mode

/-- The mode an operand form belongs to. -/
def JumpOperand.mode : JumpOperand → Mode
  | .abs _ => .abs
  | .ind _ => .ind

end Sys2Proof
end

