-- ==== Sys2Proof/Syntax.lean ====
section
/-! DEFINITION. The instruction set: one constructor for each mnemonic of spec/opcode_table.json, that is for each
instruction kind of 30_encoding.md R87 and for the sentinel UNDEFINED of R85. The table's rows of one mnemonic
differ in their mode only; the operand form a constructor carries says which row it is (log entry 1). -/

namespace Sys2Proof

/-- An instruction: its kind and its operand form, never the raw encoding. -/
inductive Instr where
  /-- LDA, load accumulator (R141). -/
  | lda (o : Source)
  /-- LDX, load X (R142). -/
  | ldx (o : Source)
  /-- LDY, load Y (R143). -/
  | ldy (o : Source)
  /-- STA, store accumulator (R144). -/
  | sta (m : MemOperand)
  /-- STX, store X (R145). -/
  | stx (m : MemOperand)
  /-- STY, store Y (R146). -/
  | sty (m : MemOperand)
  /-- TAX, transfer A to X (R147). -/
  | tax
  /-- TAY, transfer A to Y (R148). -/
  | tay
  /-- TXA, transfer X to A (R149). -/
  | txa
  /-- TYA, transfer Y to A (R150). -/
  | tya
  /-- TSX, transfer SP to X (R151). -/
  | tsx
  /-- TXS, transfer X to SP (R152). -/
  | txs
  /-- ADC, add with carry (R161). -/
  | adc (o : Source)
  /-- SBC, subtract with carry (R162). -/
  | sbc (o : Source)
  /-- AND, bitwise and (R163). -/
  | and (o : Source)
  /-- ORA, bitwise or (R164). -/
  | ora (o : Source)
  /-- EOR, bitwise exclusive or (R165). -/
  | eor (o : Source)
  /-- BIT, test bits (R166). -/
  | bit (m : MemOperand)
  /-- CMP, compare accumulator (R167). -/
  | cmp (o : Source)
  /-- CPX, compare X (R168). -/
  | cpx (o : Source)
  /-- CPY, compare Y (R169). -/
  | cpy (o : Source)
  /-- INC, increment memory (R170). -/
  | inc (m : MemOperand)
  /-- DEC, decrement memory (R171). -/
  | dec (m : MemOperand)
  /-- INX, increment X (R172). -/
  | inx
  /-- INY, increment Y (R173). -/
  | iny
  /-- DEX, decrement X (R174). -/
  | dex
  /-- DEY, decrement Y (R175). -/
  | dey
  /-- ASL, arithmetic shift left (R191). -/
  | asl (p : Place)
  /-- LSR, logical shift right (R192). -/
  | lsr (p : Place)
  /-- ROL, rotate left through carry (R193). -/
  | rol (p : Place)
  /-- ROR, rotate right through carry (R194). -/
  | ror (p : Place)
  /-- CLC, clear carry (R201). -/
  | clc
  /-- SEC, set carry (R202). -/
  | sec
  /-- CLI, clear interrupt disable (R203). -/
  | cli
  /-- SEI, set interrupt disable (R204). -/
  | sei
  /-- CLD, clear decimal (R205). -/
  | cld
  /-- SED, set decimal (R206). -/
  | sed
  /-- CLV, clear overflow (R207). -/
  | clv
  /-- NOP, no operation (R208). -/
  | nop
  /-- BCC, branch if carry clear (R211). -/
  | bcc (d : Byte)
  /-- BCS, branch if carry set (R212). -/
  | bcs (d : Byte)
  /-- BEQ, branch if equal (R213). -/
  | beq (d : Byte)
  /-- BNE, branch if not equal (R214). -/
  | bne (d : Byte)
  /-- BMI, branch if minus (R215). -/
  | bmi (d : Byte)
  /-- BPL, branch if plus (R216). -/
  | bpl (d : Byte)
  /-- BVC, branch if overflow clear (R217). -/
  | bvc (d : Byte)
  /-- BVS, branch if overflow set (R218). -/
  | bvs (d : Byte)
  /-- JMP, jump (R219). -/
  | jmp (j : JumpOperand)
  /-- JSR, jump to subroutine (R220). -/
  | jsr (a : Addr)
  /-- RTS, return from subroutine (R221). -/
  | rts
  /-- PHA, push accumulator (R231). -/
  | pha
  /-- PHP, push processor status (R232). -/
  | php
  /-- PLA, pull accumulator (R233). -/
  | pla
  /-- PLP, pull processor status (R234). -/
  | plp
  /-- BRK, software interrupt (R235). -/
  | brk
  /-- RTI, return from interrupt (R236). -/
  | rti
  /-- UNDEFINED, one of the 105 bytes of R88; it carries the raw byte that IllegalOpcode reports (R270). -/
  | undefined (opcode : Byte)
  deriving DecidableEq, Repr

/-- The kind of an instruction (30_encoding.md R85, the first field of Decode's result). -/
def Instr.kind : Instr → Kind
  | .lda _ => .lda
  | .ldx _ => .ldx
  | .ldy _ => .ldy
  | .sta _ => .sta
  | .stx _ => .stx
  | .sty _ => .sty
  | .tax => .tax
  | .tay => .tay
  | .txa => .txa
  | .tya => .tya
  | .tsx => .tsx
  | .txs => .txs
  | .adc _ => .adc
  | .sbc _ => .sbc
  | .and _ => .and
  | .ora _ => .ora
  | .eor _ => .eor
  | .bit _ => .bit
  | .cmp _ => .cmp
  | .cpx _ => .cpx
  | .cpy _ => .cpy
  | .inc _ => .inc
  | .dec _ => .dec
  | .inx => .inx
  | .iny => .iny
  | .dex => .dex
  | .dey => .dey
  | .asl _ => .asl
  | .lsr _ => .lsr
  | .rol _ => .rol
  | .ror _ => .ror
  | .clc => .clc
  | .sec => .sec
  | .cli => .cli
  | .sei => .sei
  | .cld => .cld
  | .sed => .sed
  | .clv => .clv
  | .nop => .nop
  | .bcc _ => .bcc
  | .bcs _ => .bcs
  | .beq _ => .beq
  | .bne _ => .bne
  | .bmi _ => .bmi
  | .bpl _ => .bpl
  | .bvc _ => .bvc
  | .bvs _ => .bvs
  | .jmp _ => .jmp
  | .jsr _ => .jsr
  | .rts => .rts
  | .pha => .pha
  | .php => .php
  | .pla => .pla
  | .plp => .plp
  | .brk => .brk
  | .rti => .rti
  | .undefined _ => .undefined

/-- The addressing mode of an instruction (R85, the second field of Decode's result). -/
def Instr.mode : Instr → Mode
  | .lda o => o.mode
  | .ldx o => o.mode
  | .ldy o => o.mode
  | .sta m => m.mode
  | .stx m => m.mode
  | .sty m => m.mode
  | .tax => .imp
  | .tay => .imp
  | .txa => .imp
  | .tya => .imp
  | .tsx => .imp
  | .txs => .imp
  | .adc o => o.mode
  | .sbc o => o.mode
  | .and o => o.mode
  | .ora o => o.mode
  | .eor o => o.mode
  | .bit m => m.mode
  | .cmp o => o.mode
  | .cpx o => o.mode
  | .cpy o => o.mode
  | .inc m => m.mode
  | .dec m => m.mode
  | .inx => .imp
  | .iny => .imp
  | .dex => .imp
  | .dey => .imp
  | .asl p => p.mode
  | .lsr p => p.mode
  | .rol p => p.mode
  | .ror p => p.mode
  | .clc => .imp
  | .sec => .imp
  | .cli => .imp
  | .sei => .imp
  | .cld => .imp
  | .sed => .imp
  | .clv => .imp
  | .nop => .imp
  | .bcc _ => .rel
  | .bcs _ => .rel
  | .beq _ => .rel
  | .bne _ => .rel
  | .bmi _ => .rel
  | .bpl _ => .rel
  | .bvc _ => .rel
  | .bvs _ => .rel
  | .jmp j => j.mode
  | .jsr _ => .abs
  | .rts => .imp
  | .pha => .imp
  | .php => .imp
  | .pla => .imp
  | .plp => .imp
  | .brk => .imp
  | .rti => .imp
  | .undefined _ => .undefined

/-- How many bytes of the instruction stream the engine and the resolver consume (30_encoding.md R83): a function
of the mode alone. BRK's padding byte is skipped by its handler and is not counted here. -/
def Mode.length : Mode → Nat
  | .imp => 1
  | .acc => 1
  | .imm => 2
  | .zp => 2
  | .zpx => 2
  | .zpy => 2
  | .rel => 2
  | .izx => 2
  | .izy => 2
  | .abs => 3
  | .abx => 3
  | .aby => 3
  | .ind => 3
  | .undefined => 1

/-- The length of an instruction (R83). -/
def Instr.length (i : Instr) : Nat := i.mode.length

end Sys2Proof
end

