-- ==== Sys2Proof/Decode.lean ====
section
/-! DEFINITION. The decoder, a table lookup over the opcode byte (30_encoding.md R81, R85, R86), and after it the
encoder, written from the spec's other listing of the same encodings (R87, R84). -/

namespace Sys2Proof

open Sys2Proof.Machine

/-- An entry of the 256-entry table: what the opcode byte says, and how many operand bytes follow (R80). -/
inductive Slot where
  /-- No instruction: the sentinel UNDEFINED (R85). -/
  | undef
  /-- Format F1: the opcode byte is the whole instruction. -/
  | one (i : Instr)
  /-- Format F2: one operand byte `d8`. -/
  | two (f : Byte → Instr)
  /-- Format F3: two operand bytes, the word `hi:lo`. -/
  | three (f : Addr → Instr)

/-- A cell `MNE IMP`. -/
def Slot.imp (i : Instr) : Slot := .one i

/-- A cell `MNE REL`. -/
def Slot.rel (f : Byte → Instr) : Slot := .two f

/-- A cell `MNE IMM`. -/
def Slot.rdI (f : Source → Instr) : Slot := .two fun d => f (.imm d)

/-- A read instruction in a mode with one operand byte. -/
def Slot.rd2 (f : Source → Instr) (m : Byte → MemOperand) : Slot := .two fun d => f (.mem (m d))

/-- A read instruction in a mode with two operand bytes. -/
def Slot.rd3 (f : Source → Instr) (m : Addr → MemOperand) : Slot := .three fun w => f (.mem (m w))

/-- A cell `MNE ACC`. -/
def Slot.plA (f : Place → Instr) : Slot := .one (f .acc)

/-- A shift or rotate in a memory mode with one operand byte. -/
def Slot.pl2 (f : Place → Instr) (m : Byte → MemOperand) : Slot := .two fun d => f (.mem (m d))

/-- A shift or rotate in a memory mode with two operand bytes. -/
def Slot.pl3 (f : Place → Instr) (m : Addr → MemOperand) : Slot := .three fun w => f (.mem (m w))

/-- A store, BIT, INC or DEC in a mode with one operand byte. -/
def Slot.mm2 (f : MemOperand → Instr) (m : Byte → MemOperand) : Slot := .two fun d => f (m d)

/-- A store, BIT, INC or DEC in a mode with two operand bytes. -/
def Slot.mm3 (f : MemOperand → Instr) (m : Addr → MemOperand) : Slot := .three fun w => f (m w)

/-- A cell `JMP ABS` or `JMP IND`. -/
def Slot.jump (m : Addr → JumpOperand) : Slot := .three fun w => .jmp (m w)

/-- A cell `JSR ABS`. -/
def Slot.word (f : Addr → Instr) : Slot := .three f

/-- Row 0x of R86. -/
def decodeRow0 : List Slot :=
  [ .imp .brk, .rd2 .ora .izx, .undef, .undef,
    .undef, .rd2 .ora .zp, .pl2 .asl .zp, .undef,
    .imp .php, .rdI .ora, .plA .asl, .undef,
    .undef, .rd3 .ora .abs, .pl3 .asl .abs, .undef ]

/-- Row 1x of R86. -/
def decodeRow1 : List Slot :=
  [ .rel .bpl, .rd2 .ora .izy, .undef, .undef,
    .undef, .rd2 .ora .zpx, .pl2 .asl .zpx, .undef,
    .imp .clc, .rd3 .ora .aby, .undef, .undef,
    .undef, .rd3 .ora .abx, .pl3 .asl .abx, .undef ]

/-- Row 2x of R86. -/
def decodeRow2 : List Slot :=
  [ .word .jsr, .rd2 .and .izx, .undef, .undef,
    .mm2 .bit .zp, .rd2 .and .zp, .pl2 .rol .zp, .undef,
    .imp .plp, .rdI .and, .plA .rol, .undef,
    .mm3 .bit .abs, .rd3 .and .abs, .pl3 .rol .abs, .undef ]

/-- Row 3x of R86. -/
def decodeRow3 : List Slot :=
  [ .rel .bmi, .rd2 .and .izy, .undef, .undef,
    .undef, .rd2 .and .zpx, .pl2 .rol .zpx, .undef,
    .imp .sec, .rd3 .and .aby, .undef, .undef,
    .undef, .rd3 .and .abx, .pl3 .rol .abx, .undef ]

/-- Row 4x of R86. -/
def decodeRow4 : List Slot :=
  [ .imp .rti, .rd2 .eor .izx, .undef, .undef,
    .undef, .rd2 .eor .zp, .pl2 .lsr .zp, .undef,
    .imp .pha, .rdI .eor, .plA .lsr, .undef,
    .jump .abs, .rd3 .eor .abs, .pl3 .lsr .abs, .undef ]

/-- Row 5x of R86. -/
def decodeRow5 : List Slot :=
  [ .rel .bvc, .rd2 .eor .izy, .undef, .undef,
    .undef, .rd2 .eor .zpx, .pl2 .lsr .zpx, .undef,
    .imp .cli, .rd3 .eor .aby, .undef, .undef,
    .undef, .rd3 .eor .abx, .pl3 .lsr .abx, .undef ]

/-- Row 6x of R86. -/
def decodeRow6 : List Slot :=
  [ .imp .rts, .rd2 .adc .izx, .undef, .undef,
    .undef, .rd2 .adc .zp, .pl2 .ror .zp, .undef,
    .imp .pla, .rdI .adc, .plA .ror, .undef,
    .jump .ind, .rd3 .adc .abs, .pl3 .ror .abs, .undef ]

/-- Row 7x of R86. -/
def decodeRow7 : List Slot :=
  [ .rel .bvs, .rd2 .adc .izy, .undef, .undef,
    .undef, .rd2 .adc .zpx, .pl2 .ror .zpx, .undef,
    .imp .sei, .rd3 .adc .aby, .undef, .undef,
    .undef, .rd3 .adc .abx, .pl3 .ror .abx, .undef ]

/-- Row 8x of R86. -/
def decodeRow8 : List Slot :=
  [ .undef, .mm2 .sta .izx, .undef, .undef,
    .mm2 .sty .zp, .mm2 .sta .zp, .mm2 .stx .zp, .undef,
    .imp .dey, .undef, .imp .txa, .undef,
    .mm3 .sty .abs, .mm3 .sta .abs, .mm3 .stx .abs, .undef ]

/-- Row 9x of R86. -/
def decodeRow9 : List Slot :=
  [ .rel .bcc, .mm2 .sta .izy, .undef, .undef,
    .mm2 .sty .zpx, .mm2 .sta .zpx, .mm2 .stx .zpy, .undef,
    .imp .tya, .mm3 .sta .aby, .imp .txs, .undef,
    .undef, .mm3 .sta .abx, .undef, .undef ]

/-- Row Ax of R86. -/
def decodeRowA : List Slot :=
  [ .rdI .ldy, .rd2 .lda .izx, .rdI .ldx, .undef,
    .rd2 .ldy .zp, .rd2 .lda .zp, .rd2 .ldx .zp, .undef,
    .imp .tay, .rdI .lda, .imp .tax, .undef,
    .rd3 .ldy .abs, .rd3 .lda .abs, .rd3 .ldx .abs, .undef ]

/-- Row Bx of R86. -/
def decodeRowB : List Slot :=
  [ .rel .bcs, .rd2 .lda .izy, .undef, .undef,
    .rd2 .ldy .zpx, .rd2 .lda .zpx, .rd2 .ldx .zpy, .undef,
    .imp .clv, .rd3 .lda .aby, .imp .tsx, .undef,
    .rd3 .ldy .abx, .rd3 .lda .abx, .rd3 .ldx .aby, .undef ]

/-- Row Cx of R86. -/
def decodeRowC : List Slot :=
  [ .rdI .cpy, .rd2 .cmp .izx, .undef, .undef,
    .rd2 .cpy .zp, .rd2 .cmp .zp, .mm2 .dec .zp, .undef,
    .imp .iny, .rdI .cmp, .imp .dex, .undef,
    .rd3 .cpy .abs, .rd3 .cmp .abs, .mm3 .dec .abs, .undef ]

/-- Row Dx of R86. -/
def decodeRowD : List Slot :=
  [ .rel .bne, .rd2 .cmp .izy, .undef, .undef,
    .undef, .rd2 .cmp .zpx, .mm2 .dec .zpx, .undef,
    .imp .cld, .rd3 .cmp .aby, .undef, .undef,
    .undef, .rd3 .cmp .abx, .mm3 .dec .abx, .undef ]

/-- Row Ex of R86. -/
def decodeRowE : List Slot :=
  [ .rdI .cpx, .rd2 .sbc .izx, .undef, .undef,
    .rd2 .cpx .zp, .rd2 .sbc .zp, .mm2 .inc .zp, .undef,
    .imp .inx, .rdI .sbc, .imp .nop, .undef,
    .rd3 .cpx .abs, .rd3 .sbc .abs, .mm3 .inc .abs, .undef ]

/-- Row Fx of R86. -/
def decodeRowF : List Slot :=
  [ .rel .beq, .rd2 .sbc .izy, .undef, .undef,
    .undef, .rd2 .sbc .zpx, .mm2 .inc .zpx, .undef,
    .imp .sed, .rd3 .sbc .aby, .undef, .undef,
    .undef, .rd3 .sbc .abx, .mm3 .inc .abx, .undef ]

/-- The decode table of R86: row = high nibble, column = low nibble. -/
def decodeTable : List (List Slot) :=
  [decodeRow0, decodeRow1, decodeRow2, decodeRow3, decodeRow4, decodeRow5, decodeRow6, decodeRow7,
   decodeRow8, decodeRow9, decodeRowA, decodeRowB, decodeRowC, decodeRowD, decodeRowE, decodeRowF]

/-- The table's entry for an opcode byte. -/
def slotOf (opcode : Byte) : Slot :=
  (decodeTable.getD (opcode.toNat / 16) []).getD (opcode.toNat % 16) .undef

/-- `Decode(byte) -> (instruction-kind, addressing-mode)` of R85: a total function of the opcode byte alone. -/
def decodeKindMode (opcode : Byte) : Kind × Mode :=
  match slotOf opcode with
  | .undef => (.undefined, .undefined)
  | .one i => (i.kind, i.mode)
  | .two f => ((f 0x00).kind, (f 0x00).mode)
  | .three f => ((f 0x0000).kind, (f 0x0000).mode)

/-- Why a list of bytes holds no whole instruction. -/
inductive DecodeError where
  /-- There is no opcode byte. -/
  | noOpcode
  /-- The opcode byte asks for operand bytes that are not there. -/
  | operandMissing (opcode : Byte)
  deriving DecidableEq, Repr

/-- The instruction a list of bytes begins with, and the bytes after it. Total; operand low byte first (R84). -/
def decode : List Byte → Except DecodeError (Instr × List Byte)
  | [] => .error .noOpcode
  | opcode :: rest =>
    match slotOf opcode, rest with
    | .undef, bytes => .ok (.undefined opcode, bytes)
    | .one i, bytes => .ok (i, bytes)
    | .two f, d :: bytes => .ok (f d, bytes)
    | .two _, [] => .error (.operandMissing opcode)
    | .three f, lo :: hi :: bytes => .ok (f (join hi lo), bytes)
    | .three _, [_] => .error (.operandMissing opcode)
    | .three _, [] => .error (.operandMissing opcode)

/-- The first three bytes of an instruction whose bits are `w`, numbered as the opcode table numbers them:
bit 0 is the least significant bit of the first byte. Bits from `nbits` up are zero. -/
def tableBytes (nbits w : Nat) : List Byte :=
  let v := w % 2 ^ nbits
  [BitVec.ofNat 8 v, BitVec.ofNat 8 (v / 256), BitVec.ofNat 8 (v / 65536)]

/-- The instruction the decoder reads from an instruction whose bits are `w` (none where it refuses). -/
def decodeTableWord (nbits w : Nat) : Option Instr :=
  match decode (tableBytes nbits w) with
  | .ok (i, _) => some i
  | .error _ => none

/-! ## The encoder -/

/-- The opcode bytes of each kind, with their modes: the rows of 30_encoding.md R87. -/
def Kind.rows : Kind → List (Mode × Byte)
  | .adc => [(.imm, 0x69), (.zp, 0x65), (.zpx, 0x75), (.abs, 0x6D), (.abx, 0x7D), (.aby, 0x79), (.izx, 0x61), (.izy, 0x71)]
  | .and => [(.imm, 0x29), (.zp, 0x25), (.zpx, 0x35), (.abs, 0x2D), (.abx, 0x3D), (.aby, 0x39), (.izx, 0x21), (.izy, 0x31)]
  | .asl => [(.acc, 0x0A), (.zp, 0x06), (.zpx, 0x16), (.abs, 0x0E), (.abx, 0x1E)]
  | .bcc => [(.rel, 0x90)]
  | .bcs => [(.rel, 0xB0)]
  | .beq => [(.rel, 0xF0)]
  | .bit => [(.zp, 0x24), (.abs, 0x2C)]
  | .bmi => [(.rel, 0x30)]
  | .bne => [(.rel, 0xD0)]
  | .bpl => [(.rel, 0x10)]
  | .brk => [(.imp, 0x00)]
  | .bvc => [(.rel, 0x50)]
  | .bvs => [(.rel, 0x70)]
  | .clc => [(.imp, 0x18)]
  | .cld => [(.imp, 0xD8)]
  | .cli => [(.imp, 0x58)]
  | .clv => [(.imp, 0xB8)]
  | .cmp => [(.imm, 0xC9), (.zp, 0xC5), (.zpx, 0xD5), (.abs, 0xCD), (.abx, 0xDD), (.aby, 0xD9), (.izx, 0xC1), (.izy, 0xD1)]
  | .cpx => [(.imm, 0xE0), (.zp, 0xE4), (.abs, 0xEC)]
  | .cpy => [(.imm, 0xC0), (.zp, 0xC4), (.abs, 0xCC)]
  | .dec => [(.zp, 0xC6), (.zpx, 0xD6), (.abs, 0xCE), (.abx, 0xDE)]
  | .dex => [(.imp, 0xCA)]
  | .dey => [(.imp, 0x88)]
  | .eor => [(.imm, 0x49), (.zp, 0x45), (.zpx, 0x55), (.abs, 0x4D), (.abx, 0x5D), (.aby, 0x59), (.izx, 0x41), (.izy, 0x51)]
  | .inc => [(.zp, 0xE6), (.zpx, 0xF6), (.abs, 0xEE), (.abx, 0xFE)]
  | .inx => [(.imp, 0xE8)]
  | .iny => [(.imp, 0xC8)]
  | .jmp => [(.abs, 0x4C), (.ind, 0x6C)]
  | .jsr => [(.abs, 0x20)]
  | .lda => [(.imm, 0xA9), (.zp, 0xA5), (.zpx, 0xB5), (.abs, 0xAD), (.abx, 0xBD), (.aby, 0xB9), (.izx, 0xA1), (.izy, 0xB1)]
  | .ldx => [(.imm, 0xA2), (.zp, 0xA6), (.zpy, 0xB6), (.abs, 0xAE), (.aby, 0xBE)]
  | .ldy => [(.imm, 0xA0), (.zp, 0xA4), (.zpx, 0xB4), (.abs, 0xAC), (.abx, 0xBC)]
  | .lsr => [(.acc, 0x4A), (.zp, 0x46), (.zpx, 0x56), (.abs, 0x4E), (.abx, 0x5E)]
  | .nop => [(.imp, 0xEA)]
  | .ora => [(.imm, 0x09), (.zp, 0x05), (.zpx, 0x15), (.abs, 0x0D), (.abx, 0x1D), (.aby, 0x19), (.izx, 0x01), (.izy, 0x11)]
  | .pha => [(.imp, 0x48)]
  | .php => [(.imp, 0x08)]
  | .pla => [(.imp, 0x68)]
  | .plp => [(.imp, 0x28)]
  | .rol => [(.acc, 0x2A), (.zp, 0x26), (.zpx, 0x36), (.abs, 0x2E), (.abx, 0x3E)]
  | .ror => [(.acc, 0x6A), (.zp, 0x66), (.zpx, 0x76), (.abs, 0x6E), (.abx, 0x7E)]
  | .rti => [(.imp, 0x40)]
  | .rts => [(.imp, 0x60)]
  | .sbc => [(.imm, 0xE9), (.zp, 0xE5), (.zpx, 0xF5), (.abs, 0xED), (.abx, 0xFD), (.aby, 0xF9), (.izx, 0xE1), (.izy, 0xF1)]
  | .sec => [(.imp, 0x38)]
  | .sed => [(.imp, 0xF8)]
  | .sei => [(.imp, 0x78)]
  | .sta => [(.zp, 0x85), (.zpx, 0x95), (.abs, 0x8D), (.abx, 0x9D), (.aby, 0x99), (.izx, 0x81), (.izy, 0x91)]
  | .stx => [(.zp, 0x86), (.zpy, 0x96), (.abs, 0x8E)]
  | .sty => [(.zp, 0x84), (.zpx, 0x94), (.abs, 0x8C)]
  | .tax => [(.imp, 0xAA)]
  | .tay => [(.imp, 0xA8)]
  | .tsx => [(.imp, 0xBA)]
  | .txa => [(.imp, 0x8A)]
  | .txs => [(.imp, 0x9A)]
  | .tya => [(.imp, 0x98)]
  | .undefined => []

/-- The opcode byte of a (kind, mode) pair. A pair without a row has no byte; the 0x00 answered for it belongs to
no instruction that decoding can yield (log entry 1). -/
def opcodeOf (k : Kind) (m : Mode) : Byte := ((k.rows).lookup m).getD 0x00

/-- The opcode byte of an instruction. -/
def Instr.opcode : Instr → Byte
  | .lda o => opcodeOf (Instr.lda o).kind (Instr.lda o).mode
  | .ldx o => opcodeOf (Instr.ldx o).kind (Instr.ldx o).mode
  | .ldy o => opcodeOf (Instr.ldy o).kind (Instr.ldy o).mode
  | .sta m => opcodeOf (Instr.sta m).kind (Instr.sta m).mode
  | .stx m => opcodeOf (Instr.stx m).kind (Instr.stx m).mode
  | .sty m => opcodeOf (Instr.sty m).kind (Instr.sty m).mode
  | .tax => opcodeOf .tax .imp
  | .tay => opcodeOf .tay .imp
  | .txa => opcodeOf .txa .imp
  | .tya => opcodeOf .tya .imp
  | .tsx => opcodeOf .tsx .imp
  | .txs => opcodeOf .txs .imp
  | .adc o => opcodeOf (Instr.adc o).kind (Instr.adc o).mode
  | .sbc o => opcodeOf (Instr.sbc o).kind (Instr.sbc o).mode
  | .and o => opcodeOf (Instr.and o).kind (Instr.and o).mode
  | .ora o => opcodeOf (Instr.ora o).kind (Instr.ora o).mode
  | .eor o => opcodeOf (Instr.eor o).kind (Instr.eor o).mode
  | .bit m => opcodeOf (Instr.bit m).kind (Instr.bit m).mode
  | .cmp o => opcodeOf (Instr.cmp o).kind (Instr.cmp o).mode
  | .cpx o => opcodeOf (Instr.cpx o).kind (Instr.cpx o).mode
  | .cpy o => opcodeOf (Instr.cpy o).kind (Instr.cpy o).mode
  | .inc m => opcodeOf (Instr.inc m).kind (Instr.inc m).mode
  | .dec m => opcodeOf (Instr.dec m).kind (Instr.dec m).mode
  | .inx => opcodeOf .inx .imp
  | .iny => opcodeOf .iny .imp
  | .dex => opcodeOf .dex .imp
  | .dey => opcodeOf .dey .imp
  | .asl p => opcodeOf (Instr.asl p).kind (Instr.asl p).mode
  | .lsr p => opcodeOf (Instr.lsr p).kind (Instr.lsr p).mode
  | .rol p => opcodeOf (Instr.rol p).kind (Instr.rol p).mode
  | .ror p => opcodeOf (Instr.ror p).kind (Instr.ror p).mode
  | .clc => opcodeOf .clc .imp
  | .sec => opcodeOf .sec .imp
  | .cli => opcodeOf .cli .imp
  | .sei => opcodeOf .sei .imp
  | .cld => opcodeOf .cld .imp
  | .sed => opcodeOf .sed .imp
  | .clv => opcodeOf .clv .imp
  | .nop => opcodeOf .nop .imp
  | .bcc d => opcodeOf (Instr.bcc d).kind (Instr.bcc d).mode
  | .bcs d => opcodeOf (Instr.bcs d).kind (Instr.bcs d).mode
  | .beq d => opcodeOf (Instr.beq d).kind (Instr.beq d).mode
  | .bne d => opcodeOf (Instr.bne d).kind (Instr.bne d).mode
  | .bmi d => opcodeOf (Instr.bmi d).kind (Instr.bmi d).mode
  | .bpl d => opcodeOf (Instr.bpl d).kind (Instr.bpl d).mode
  | .bvc d => opcodeOf (Instr.bvc d).kind (Instr.bvc d).mode
  | .bvs d => opcodeOf (Instr.bvs d).kind (Instr.bvs d).mode
  | .jmp j => opcodeOf (Instr.jmp j).kind (Instr.jmp j).mode
  | .jsr a => opcodeOf (Instr.jsr a).kind (Instr.jsr a).mode
  | .rts => opcodeOf .rts .imp
  | .pha => opcodeOf .pha .imp
  | .php => opcodeOf .php .imp
  | .pla => opcodeOf .pla .imp
  | .plp => opcodeOf .plp .imp
  | .brk => opcodeOf .brk .imp
  | .rti => opcodeOf .rti .imp
  | .undefined opcode => opcode

/-- A 16-bit operand in the instruction stream: low byte first (R84, 20_memory.md R54). -/
def wordBytes (w : Addr) : List Byte := [loByte w, hiByte w]

/-- The operand bytes of a memory operand (R84). -/
def MemOperand.operandBytes : MemOperand → List Byte
  | .zp d => [d]
  | .zpx d => [d]
  | .zpy d => [d]
  | .abs a => wordBytes a
  | .abx base => wordBytes base
  | .aby base => wordBytes base
  | .izx d => [d]
  | .izy d => [d]

/-- The operand bytes of a read operand (R84). -/
def Source.operandBytes : Source → List Byte
  | .imm v => [v]
  | .mem m => m.operandBytes

/-- The operand bytes of a read-modify-write operand (R84). -/
def Place.operandBytes : Place → List Byte
  | .acc => []
  | .mem m => m.operandBytes

/-- The operand bytes of JMP (R84). -/
def JumpOperand.operandBytes : JumpOperand → List Byte
  | .abs a => wordBytes a
  | .ind ptr => wordBytes ptr

/-- The operand bytes of an instruction (R84). -/
def Instr.operandBytes : Instr → List Byte
  | .lda o => o.operandBytes
  | .ldx o => o.operandBytes
  | .ldy o => o.operandBytes
  | .sta m => m.operandBytes
  | .stx m => m.operandBytes
  | .sty m => m.operandBytes
  | .tax => []
  | .tay => []
  | .txa => []
  | .tya => []
  | .tsx => []
  | .txs => []
  | .adc o => o.operandBytes
  | .sbc o => o.operandBytes
  | .and o => o.operandBytes
  | .ora o => o.operandBytes
  | .eor o => o.operandBytes
  | .bit m => m.operandBytes
  | .cmp o => o.operandBytes
  | .cpx o => o.operandBytes
  | .cpy o => o.operandBytes
  | .inc m => m.operandBytes
  | .dec m => m.operandBytes
  | .inx => []
  | .iny => []
  | .dex => []
  | .dey => []
  | .asl p => p.operandBytes
  | .lsr p => p.operandBytes
  | .rol p => p.operandBytes
  | .ror p => p.operandBytes
  | .clc => []
  | .sec => []
  | .cli => []
  | .sei => []
  | .cld => []
  | .sed => []
  | .clv => []
  | .nop => []
  | .bcc d => [d]
  | .bcs d => [d]
  | .beq d => [d]
  | .bne d => [d]
  | .bmi d => [d]
  | .bpl d => [d]
  | .bvc d => [d]
  | .bvs d => [d]
  | .jmp j => j.operandBytes
  | .jsr a => wordBytes a
  | .rts => []
  | .pha => []
  | .php => []
  | .pla => []
  | .plp => []
  | .brk => []
  | .rti => []
  | .undefined _ => []

/-- The bytes of a well-formed instruction: the opcode byte, then the operand bytes (R80). -/
def encode (i : Instr) : List Byte := i.opcode :: i.operandBytes

end Sys2Proof
end

