-- ==== Sys2Proof/Config.lean ====
section
/-! DEFINITION. What is fixed for one machine: the bus behind the core (20_memory.md R51, R52) and the other parameters
of 00_scope.md R7 as types, what memory that nothing has written reads as, and the one free value of the model, the
bus's answers. The parameters' values stand in Machine/Parameters.lean. -/

namespace Sys2Proof.Machine

/-! ## The bus -/

/-- What answers at an address of the bus (20_memory.md R52, R53; log entry 3). -/
inductive BusUnit where
  /-- Nothing is assumed: a read answers a free value that may depend on everything the bus has seen, a write is an
  event (R52). A device register, an unmapped address, a mirror, a switched bank. -/
  | oracle
  /-- Read-write memory, the FlatRam of R71: a read answers the byte last written. -/
  | ram
  /-- Read-only memory: a read answers its content, a write changes nothing. -/
  | rom
  deriving DecidableEq, Repr

/-- A run of addresses, `base` to `base + size - 1`, at which one unit answers. -/
structure Region where
  base : Nat
  size : Nat
  answers : BusUnit
  deriving DecidableEq, Repr

/-- The parameter `Bus` of 00_scope.md R7: which unit answers at each address. The first region that covers an address
counts; where none does, `elsewhere` answers. -/
structure Bus where
  regions : List Region
  elsewhere : BusUnit
  deriving DecidableEq, Repr

/-- One bus transaction as the host sees it (00_scope.md R12, 20_memory.md R51). -/
inductive BusAccess where
  /-- `ReadByte(addr)` that was answered `value`. -/
  | read (addr : Addr) (value : Byte)
  /-- `WriteByte(addr, value)`. -/
  | write (addr : Addr) (value : Byte)
  deriving DecidableEq, Repr

/-- What the host may do between two ticks (00_scope.md R11 (8); log entry 4). -/
inductive HostMove where
  /-- Set the levels of the two request lines (60_exceptions.md R273). -/
  | lines (nmi irq : Bool)
  /-- Invoke reset (70_reset_and_hazards.md R302). -/
  | reset
  /-- Another unit of the console changes a byte of memory (20_memory.md R63, R70). -/
  | poke (addr : Addr) (value : Byte)
  /-- Other units answer from now on (20_memory.md R52). -/
  | remap (bus : Bus)
  deriving DecidableEq, Repr

/-- What the bus has seen: the core's transactions, and the host's turn before each tick. -/
inductive BusEvent where
  | access (access : BusAccess)
  | turn (moves : List HostMove)
  deriving DecidableEq, Repr

/-! ## The other parameters of R7 -/

/-- ILLEGAL_POLICY: what the owning system does on IllegalOpcode (log entry 7). -/
inductive IllegalPolicy where
  /-- Report it and go on ticking: the default of R7, "report and continue (core has no halted state)". -/
  | report
  /-- Report it and stop the machine from outside (60_exceptions.md R270, "decides whether to halt"). -/
  | halt
  deriving DecidableEq, Repr

end Sys2Proof.Machine

namespace Sys2Proof

/-- The parameters RESET_A, RESET_X, RESET_Y, RESET_SP, RESET_FLAGS of 00_scope.md R7. -/
structure ResetValues where
  a : Byte
  x : Byte
  y : Byte
  sp : Byte
  n : Bool
  v : Bool
  b : Bool
  d : Bool
  i : Bool
  z : Bool
  c : Bool
  deriving DecidableEq, Repr

/-- The named parameters of the model, row by row as 00_scope.md R7 lists them. -/
structure Parameters where
  /-- UNDOCUMENTED: which of the 105 non-official bytes are defined. -/
  undocumented : List Byte
  /-- RESET_A, RESET_X, RESET_Y, RESET_SP, RESET_FLAGS. -/
  resetValues : ResetValues
  /-- INT_CYCLES: the tick cost of an NMI or IRQ entry. -/
  intCycles : Nat
  /-- BASE_CYCLES[256], sixteen rows of sixteen. -/
  baseCycles : List (List Nat)
  /-- PAGE_PENALTY[256]: the bytes that add one cycle when the resolver signals a page cross. -/
  pagePenalty : List Byte
  /-- ILLEGAL_POLICY: the owning system's policy after reset. -/
  illegalPolicy : Machine.IllegalPolicy
  /-- Bus: the memory behind ReadByte and WriteByte after reset. -/
  bus : Machine.Bus
  deriving DecidableEq, Repr

/-- What a byte of memory that nothing has written reads as. DESIGN CHOICE, log entry 2: the spec gives no
contents for the memory behind the bus; 0x00 is the convention of 95_test_vectors.md ("all zero"). -/
def Config.unlistedByte : Byte := 0x00

/-- FREE VALUE, log entry 3: the byte that an oracle answers to `ReadByte(a)`, given everything the bus has seen before
(20_memory.md R52: "an oracle that answers reads and an event sink that records writes"). The body is opaque, so a
claim about such a read holds for every bus. -/
opaque Config.busOracle : List Machine.BusEvent → Addr → Byte

end Sys2Proof
end

