-- ==== Sys2Proof/Machine/Parameters.lean ====
section
/-! DEFINITION. The configuration: the value of every parameter of 00_scope.md R7, each at the default that R7 names.
The machine reads them here and nowhere else. -/

namespace Sys2Proof.Machine

/-- FlatRam (20_memory.md R71): read-write memory at every address. -/
def Bus.flatRam : Bus where
  regions := []
  elsewhere := .ram

/-- The bus of which nothing is assumed, at no address (20_memory.md R52). -/
def Bus.unknown : Bus where
  regions := []
  elsewhere := .oracle

end Sys2Proof.Machine

namespace Sys2Proof

/-- RESET_*: A = X = Y = 0x00 (R36), SP = 0xFD (R37), I = 1 and the other six flags 0 (R38). The spec's own choices
(D4, D5, D6), log entry 8. -/
def Config.resetValues : ResetValues where
  a := 0x00
  x := 0x00
  y := 0x00
  sp := 0xFD
  n := false
  v := false
  b := false
  d := false
  i := true
  z := false
  c := false

/-- BASE_CYCLES byte by byte, as 49_execution_engine.md R246 prints it (row = high nibble, column = low nibble); 0
where it prints a dot, an UNDEFINED byte, which has no count. The spec's own choice (D21), log entry 10. -/
def Config.baseCycles : List (List Nat) :=
  [[7, 6, 0, 0, 0, 3, 5, 0, 3, 2, 2, 0, 0, 4, 6, 0],
   [2, 5, 0, 0, 0, 4, 6, 0, 2, 4, 0, 0, 0, 4, 7, 0],
   [6, 6, 0, 0, 3, 3, 5, 0, 4, 2, 2, 0, 4, 4, 6, 0],
   [2, 5, 0, 0, 0, 4, 6, 0, 2, 4, 0, 0, 0, 4, 7, 0],
   [6, 6, 0, 0, 0, 3, 5, 0, 3, 2, 2, 0, 3, 4, 6, 0],
   [2, 5, 0, 0, 0, 4, 6, 0, 2, 4, 0, 0, 0, 4, 7, 0],
   [6, 6, 0, 0, 0, 3, 5, 0, 4, 2, 2, 0, 5, 4, 6, 0],
   [2, 5, 0, 0, 0, 4, 6, 0, 2, 4, 0, 0, 0, 4, 7, 0],
   [0, 6, 0, 0, 3, 3, 3, 0, 2, 0, 2, 0, 4, 4, 4, 0],
   [2, 6, 0, 0, 4, 4, 4, 0, 2, 5, 2, 0, 0, 5, 0, 0],
   [2, 6, 2, 0, 3, 3, 3, 0, 2, 2, 2, 0, 4, 4, 4, 0],
   [2, 5, 0, 0, 4, 4, 4, 0, 2, 4, 2, 0, 4, 4, 4, 0],
   [2, 6, 0, 0, 3, 3, 5, 0, 2, 2, 2, 0, 4, 4, 6, 0],
   [2, 5, 0, 0, 0, 4, 6, 0, 2, 4, 0, 0, 0, 4, 7, 0],
   [2, 6, 0, 0, 3, 3, 5, 0, 2, 2, 2, 0, 4, 4, 6, 0],
   [2, 5, 0, 0, 0, 4, 6, 0, 2, 4, 0, 0, 0, 4, 7, 0]]

/-- PAGE_PENALTY: the 23 bytes of R247, in the rule's order ADC AND CMP EOR LDA LDX LDY ORA SBC (D21), log entry 10. -/
def Config.pagePenalty : List Byte :=
  [0x7D, 0x79, 0x71] ++ [0x3D, 0x39, 0x31] ++ [0xDD, 0xD9, 0xD1] ++ [0x5D, 0x59, 0x51] ++ [0xBD, 0xB9, 0xB1] ++
    [0xBE] ++ [0xBC] ++ [0x1D, 0x19, 0x11] ++ [0xFD, 0xF9, 0xF1]

/-- The configuration of this machine, every parameter at the default of R7: UNDOCUMENTED = none (D1, log entry 14),
INT_CYCLES = 7 (D19), report and continue (D20), FlatRam (D28). -/
def Config.parameters : Parameters where
  undocumented := []
  resetValues := Config.resetValues
  intCycles := 7
  baseCycles := Config.baseCycles
  pagePenalty := Config.pagePenalty
  illegalPolicy := .report
  bus := Machine.Bus.flatRam

end Sys2Proof
end

