-- ==== Sys2Proof/Machine/State.lean ====
section
/-! DEFINITION. Everything the spec gives the machine (10_state.md R20), the inputs and outputs of the block
(00_scope.md R12), and what stands behind the bus (20_memory.md R50 to R71), as plain data. -/

namespace Sys2Proof.Machine

/-- The seven stored 1-bit flags (10_state.md R25). The reserved bit 5 of the status byte has no storage. -/
structure Flags where
  /-- N, negative. -/
  n : Bool
  /-- V, overflow. -/
  v : Bool
  /-- B, break: written by PLP, RTI and reset, read by nothing (R29). -/
  b : Bool
  /-- D, decimal: stored, with no effect on arithmetic (R31, 42_arithmetic_logic.md R177). -/
  d : Bool
  /-- I, interrupt disable: masks IRQ (R31, 60_exceptions.md R276). -/
  i : Bool
  /-- Z, zero. -/
  z : Bool
  /-- C, carry. -/
  c : Bool
  deriving DecidableEq, Repr

/-- Memory: (address, byte) cells, addresses strictly rising, no cell that holds what an unlisted address reads
as. `Memory.wf` (Machine/Ops.lean) says the form holds. -/
abbrev Memory := List Host.Cell

/-- The two interrupt request lines (60_exceptions.md R273). -/
inductive InterruptKind where
  | nmi
  | irq
  deriving DecidableEq, Repr

/-- The result of a tick (49_execution_engine.md R252). -/
inductive TickResult where
  /-- A Running tick, with the new latency. -/
  | counted (latency : BitVec 3)
  /-- An Idle tick that performed an instruction: the opcode byte, its address, the total cycle count. -/
  | executed (opcode : Byte) (pc0 : Addr) (total : Nat)
  /-- An Idle tick that performed an interrupt entry: which, and its cycle count. -/
  | interrupt (kind : InterruptKind) (total : Nat)
  /-- An Idle tick that fetched an UNDEFINED byte: the raw byte and its address (60_exceptions.md R270). -/
  | illegalOpcode (opcode : Byte) (pc0 : Addr)
  deriving DecidableEq, Repr

/-- The machine: the core's state of R20, then the inputs, the bus and the outputs around it. -/
structure State where
  /-- A, accumulator (R21). -/
  a : Byte
  /-- X, index register (R21). -/
  x : Byte
  /-- Y, index register (R21). -/
  y : Byte
  /-- SP, stack pointer: the stack address is 0x0100 + SP (R22). -/
  sp : Byte
  /-- PC, program counter (R24). -/
  pc : Addr
  /-- The status flags (R25). -/
  flags : Flags
  /-- The remaining-cycle counter (R33 (a)); 0 is Idle, anything else Running (R34). -/
  latency : BitVec 3
  /-- nmi_prev, the NMI level at the last Idle sample (R33 (b)). -/
  nmiPrev : Bool
  /-- Input: the level of the nmi line (60_exceptions.md R273). -/
  nmi : Bool
  /-- Input: the level of the irq line (60_exceptions.md R273). -/
  irq : Bool
  /-- Input: what the host does before each coming tick; after its end the host does nothing (log entry 4). -/
  schedule : List (List HostMove)
  /-- The owning system's ILLEGAL_POLICY (00_scope.md R7). -/
  policy : IllegalPolicy
  /-- The bytes behind the bus that hold still. -/
  mem : Memory
  /-- The parameter `Bus` (00_scope.md R7): which unit answers where. -/
  bus : Bus
  /-- The model's own record, which the free value is applied to: what the bus saw before this tick's transactions,
  oldest first (log entry 3). -/
  busPast : List BusEvent
  /-- Output: the result of the last tick (R252); none before the first tick after reset. -/
  result : Option TickResult
  /-- Output: the bus transactions of the last tick, oldest first (20_memory.md R60). -/
  accesses : List BusAccess
  deriving DecidableEq, Repr

/-- Why the machine stops. Closed. -/
inductive Fault where
  /-- Raised by the meaning of UNDEFINED alone (Machine/Stack.lean, `execUndefined`), and only where the owning
  system's policy is `halt`: IllegalOpcode(opcode, pc0) of 60_exceptions.md R270. Safe: the spec says that a model
  should treat it as a fault, and the policy `report` goes on instead. -/
  | illegalOpcode (opcode : Byte) (pc0 : Addr)
  deriving DecidableEq, Repr

/-- Why an instruction has no meaning. Closed. -/
inductive Refusal where
  /-- For an arm of exec that has no meaning yet. No arm of this model raises it. Safe. -/
  | notModelled (mnemonic : String)
  /-- Raised by the meaning of UNDEFINED alone (Machine/Stack.lean, `execUndefined`), and only where the parameter
  UNDOCUMENTED names the byte as defined (00_scope.md R7): the spec then gives it no effect. UNDOCUMENTED is none in
  this machine's configuration, so no step raises it (log entry 14). Safe. -/
  | undocumentedOpcode (opcode : Byte)
  deriving DecidableEq, Repr

/-- The machine right after reset (10_state.md R35 to R39, 70_reset_and_hazards.md R300, R301) over a memory that
lists nothing: PC is the word at 0xFFFC (low) and 0xFFFD (high), the two reads are the bus accesses of reset.
The registers' values are log entry 8, the memory log entry 2, the bus log entry 3, the inputs log entry 4. -/
def State.reset : State where
  a := Config.parameters.resetValues.a
  x := Config.parameters.resetValues.x
  y := Config.parameters.resetValues.y
  sp := Config.parameters.resetValues.sp
  pc := Config.unlistedByte ++ Config.unlistedByte
  flags :=
    { n := Config.parameters.resetValues.n, v := Config.parameters.resetValues.v,
      b := Config.parameters.resetValues.b,
      d := Config.parameters.resetValues.d, i := Config.parameters.resetValues.i,
      z := Config.parameters.resetValues.z, c := Config.parameters.resetValues.c }
  latency := 0
  nmiPrev := false
  nmi := false
  irq := false
  schedule := []
  policy := Config.parameters.illegalPolicy
  mem := []
  bus := Config.parameters.bus
  busPast := []
  result := none
  accesses := [.read 0xFFFC Config.unlistedByte, .read 0xFFFD Config.unlistedByte]

end Sys2Proof.Machine
end

