-- ==== Sys2Proof/Machine/Cycles.lean ====
section
/-! DEFINITION. The cycle counts (49_execution_engine.md R245 to R248) and the retirement of an instruction: loading
the remaining-cycle counter and reporting the tick's result (R242, R243, R252). -/

namespace Sys2Proof.Machine

/-- BASE_CYCLES of an opcode byte, under any parameters (R246). -/
def baseCyclesWith (p : Parameters) (opcode : Byte) : Nat :=
  (p.baseCycles.getD (opcode.toNat / 16) []).getD (opcode.toNat % 16) 0

/-- PAGE_PENALTY of an opcode byte, under any parameters (R247). -/
def pagePenaltyWith (p : Parameters) (opcode : Byte) : Bool := p.pagePenalty.contains opcode

/-- The total cycle count, under any parameters (R245). -/
def totalCyclesWith (p : Parameters) (opcode : Byte) (extra : Bool) (branchCycles : Nat) : Nat :=
  baseCyclesWith p opcode + (if extra && pagePenaltyWith p opcode then 1 else 0) + branchCycles

/-- BASE_CYCLES of an opcode byte, in this machine's configuration. -/
def baseCycles (opcode : Byte) : Nat := baseCyclesWith Config.parameters opcode

/-- PAGE_PENALTY of an opcode byte, in this machine's configuration. -/
def pagePenalty (opcode : Byte) : Bool := pagePenaltyWith Config.parameters opcode

/-- The total cycle count, in this machine's configuration. -/
def totalCycles (opcode : Byte) (extra : Bool) (branchCycles : Nat) : Nat :=
  totalCyclesWith Config.parameters opcode extra branchCycles

/-- The end of an Idle tick that performed an instruction (R242): `latency` takes total - 1 and the result is
`Executed(opcode, pc0, total)`. `next` is PC as the handler found it, the address after the instruction's bytes
(10_state.md R24), so that pc0 is `next` minus the length. -/
def retireWith (p : Parameters) (i : Instr) (next : Addr) (extra : Bool) (branchCycles : Nat) (s : State) :
    Host.Outcome State Fault Refusal :=
  let total := totalCyclesWith p i.opcode extra branchCycles
  .next { s with
    latency := BitVec.ofNat 3 (total - 1)
    result := some (.executed i.opcode (next - BitVec.ofNat 16 i.length) total) }

/-- The retirement in this machine's configuration. -/
def retire (i : Instr) (next : Addr) (extra : Bool) (branchCycles : Nat) (s : State) :
    Host.Outcome State Fault Refusal :=
  retireWith Config.parameters i next extra branchCycles s

end Sys2Proof.Machine
end

