-- ==== Sys2Proof/Machine/Bus.lean ====
section
/-! DEFINITION. What stands behind the bus, outside the core: memory, and how the parameter `Bus` of 00_scope.md R7
answers a read and takes a write (20_memory.md R51, R52, R69, R71; log entry 3). The core (Machine/Ops.lean) calls
`Bus.readByte` and `Bus.writeByte` and assumes nothing of them. -/

namespace Sys2Proof.Machine

/-! ## Memory: bytes that hold still -/

/-- The byte at an address: the cell's, or what an unlisted address reads as. -/
def Memory.get : Memory → Nat → Byte
  | [], _ => Config.unlistedByte
  | (k, v) :: m, a => if a = k then v else Memory.get m a

/-- Memory without the cell of an address. -/
def Memory.erase (m : Memory) (a : Nat) : Memory := m.filter (fun c => c.1 != a)

/-- A cell put before the first cell of a greater address. -/
def Memory.insert : Memory → Nat → Byte → Memory
  | [], a, v => [(a, v)]
  | (k, w) :: m, a, v => if a < k then (a, v) :: (k, w) :: m else (k, w) :: Memory.insert m a v

/-- Memory with one byte changed, in the canonical form again. -/
def Memory.set (m : Memory) (a : Nat) (v : Byte) : Memory :=
  if v = Config.unlistedByte then m.erase a else (m.erase a).insert a v

/-- The canonical form from address `lo` up: rising addresses of the 16-bit space (20_memory.md R50), and no cell
that equals what an unlisted address reads as. -/
def Memory.wfFrom (lo : Nat) : Memory → Bool
  | [] => true
  | (k, v) :: m => decide (lo ≤ k) && decide (k < 65536) && decide (v ≠ Config.unlistedByte) && Memory.wfFrom (k + 1) m

/-- The canonical form of memory. -/
def Memory.wf (m : Memory) : Bool := Memory.wfFrom 0 m

/-! ## The bus -/

/-- Whether a region covers an address. -/
def Region.covers (r : Region) (a : Nat) : Bool := decide (r.base ≤ a) && decide (a < r.base + r.size)

/-- The unit that answers at an address. -/
def Bus.unitAt (b : Bus) (a : Addr) : BusUnit :=
  match b.regions.find? (fun r => r.covers a.toNat) with
  | some r => r.answers
  | none => b.elsewhere

/-- What `ReadByte(a)` answers, `m` being the bytes that hold still and `past` all that the bus has seen. -/
def Bus.readByte (b : Bus) (m : Memory) (past : List BusEvent) (a : Addr) : Byte :=
  match b.unitAt a with
  | .oracle => Config.busOracle past a
  | .ram => m.get a.toNat
  | .rom => m.get a.toNat

/-- The bytes that hold still after `WriteByte(a, v)`. -/
def Bus.writeByte (b : Bus) (m : Memory) (a : Addr) (v : Byte) : Memory :=
  match b.unitAt a with
  | .oracle => m
  | .ram => m.set a.toNat v
  | .rom => m

end Sys2Proof.Machine
end

