-- ==== Sys2Proof/Machine/Flags.lean ====
section
/-! DEFINITION. The status byte and every flag computation of the spec. -/

namespace Sys2Proof.Machine

/-- `P(b)` of 00_scope.md R10: the status byte with bit 4 forced to `bit4`, bit 5 reading 1. The masks are the row
of 10_state.md R27. -/
def Flags.statusByte (f : Flags) (bit4 : Bool) : Byte :=
  bitAt f.n 0x80 ||| bitAt f.v 0x40 ||| 0x20 ||| bitAt bit4 0x10 |||
    bitAt f.d 0x08 ||| bitAt f.i 0x04 ||| bitAt f.z 0x02 ||| bitAt f.c 0x01

/-- `setP(v)` of R10: all seven flags from a popped status byte; bit 5 is ignored (R27). -/
def Flags.ofStatus (v : Byte) : Flags where
  n := v.getLsbD 7
  v := v.getLsbD 6
  b := v.getLsbD 4
  d := v.getLsbD 3
  i := v.getLsbD 2
  z := v.getLsbD 1
  c := v.getLsbD 0

/-- `setNZ(v)` of R10. -/
def Flags.setNZ (f : Flags) (v : Byte) : Flags := { f with n := v.getLsbD 7, z := v == 0x00 }

/-- The flags of ADC and SBC: N and Z from the result, and the given C and V. -/
def Flags.setArith (f : Flags) (r : Byte) (carry overflow : Bool) : Flags :=
  { f with n := r.getLsbD 7, z := r == 0x00, c := carry, v := overflow }

/-- The flags of the shifts and rotates: N and Z from the result, C the bit shifted out (43_shift_rotate.md). -/
def Flags.setShift (f : Flags) (r : Byte) (out : Bool) : Flags :=
  { f with n := r.getLsbD 7, z := r == 0x00, c := out }

/-- The flags of CMP, CPX, CPY (42_arithmetic_logic.md R167): C the unsigned order, Z equality, N bit 7 of the
difference. -/
def Flags.setCompare (f : Flags) (r m : Byte) : Flags :=
  { f with c := m.ule r, z := r == m, n := (r - m).getLsbD 7 }

/-- The flags of BIT (R166): Z from the and, N and V copied from the memory byte. -/
def Flags.setBit (f : Flags) (a m : Byte) : Flags :=
  { f with z := (a &&& m) == 0x00, n := m.getLsbD 7, v := m.getLsbD 6 }

/-- The 9-bit sum of ADC (R161), 0 to 511. -/
def sum9 (a m : Byte) (c : Bool) : BitVec 9 := a.setWidth 9 + m.setWidth 9 + (BitVec.ofBool c).setWidth 9

/-- The result of ADC (R161): `sum[7:0]`. -/
def addResult (a m : Byte) (c : Bool) : Byte := (sum9 a m c).setWidth 8

/-- The carry of ADC (R161): `sum[8]`. -/
def addCarry (a m : Byte) (c : Bool) : Bool := (sum9 a m c).getLsbD 8

/-- The signed overflow of ADC (R161): `((A ^ r) & (M ^ r))[7]`. -/
def addOverflow (a m : Byte) (c : Bool) : Bool :=
  ((a ^^^ addResult a m c) &&& (m ^^^ addResult a m c)).getLsbD 7

/-- ASL (43_shift_rotate.md R191): the result and the bit shifted out. The old carry is not read. -/
def shiftLeft (v : Byte) (_c : Bool) : Byte × Bool := (v <<< 1, v.getLsbD 7)

/-- LSR (R192): the result and the bit shifted out. The old carry is not read. -/
def shiftRight (v : Byte) (_c : Bool) : Byte × Bool := (v >>> 1, v.getLsbD 0)

/-- ROL (R193): the old carry enters at bit 0. -/
def rotateLeft (v : Byte) (c : Bool) : Byte × Bool := ((v <<< 1) ||| bitAt c 0x01, v.getLsbD 7)

/-- ROR (R194): the old carry enters at bit 7. -/
def rotateRight (v : Byte) (c : Bool) : Byte × Bool := ((v >>> 1) ||| bitAt c 0x80, v.getLsbD 0)

end Sys2Proof.Machine
end

