-- ==== Sys2Proof/Machine/Ops.lean ====
section
/-! DEFINITION. The named operations of the core over the bus, the stack and the registers; taking an exception and
returning from one; reset; the host's turn between two ticks. -/

namespace Sys2Proof.Machine

/-! ## The two bus operations of the core (20_memory.md R51, R52) -/

/-- The unit that answers at an address. -/
def State.unitAt (s : State) (a : Addr) : BusUnit := s.bus.unitAt a

/-- The model's read of one byte of memory, without the bus: what holds still at an address. -/
def State.peek (s : State) (a : Addr) : Byte := s.mem.get a.toNat

/-- Everything the bus has seen so far. -/
def State.busSeen (s : State) : List BusEvent := s.busPast ++ s.accesses.map .access

/-- What `ReadByte(a)` answers now. -/
def State.answer (s : State) (a : Addr) : Byte := s.bus.readByte s.mem s.busSeen a

/-- The state after `ReadByte(a)`: the transaction is on the bus, and nothing of the core has changed. -/
def State.afterRead (s : State) (a : Addr) : State := { s with accesses := s.accesses ++ [.read a (s.answer a)] }

/-- `MemRead(a, 1)` of 00_scope.md R9. -/
def State.read (s : State) (a : Addr) : Byte × State := (s.answer a, s.afterRead a)

/-- `MemWrite(a, 1, v)` of 00_scope.md R9. -/
def State.write (s : State) (a : Addr) (v : Byte) : State :=
  { s with mem := s.bus.writeByte s.mem a v, accesses := s.accesses ++ [.write a v] }

/-! ## The stack (00_scope.md R10, 20_memory.md R57) -/

/-- `push(v)`: write at 0x0100 + SP, then SP - 1 modulo 256. -/
def State.push (s : State) (v : Byte) : State :=
  let s := s.write (stackAddr s.sp) v
  { s with sp := s.sp - 1 }

/-- `pop()`: SP + 1 modulo 256, then read at 0x0100 + SP. -/
def State.pop (s : State) : Byte × State :=
  let s := { s with sp := s.sp + 1 }
  s.read (stackAddr s.sp)

/-- Push a 16-bit quantity, high byte first (20_memory.md R54 (d)). -/
def State.pushWord (s : State) (w : Addr) : State := (s.push (hiByte w)).push (loByte w)

/-- Pop a 16-bit quantity, low byte first (45_branch_jump.md R221, 46_stack_system.md R236). -/
def State.popWord (s : State) : Addr × State :=
  let (lo, s) := s.pop
  let (hi, s) := s.pop
  (join hi lo, s)

/-- Read a 16-bit quantity at an address and the next one, low byte first (20_memory.md R54 (a)). -/
def State.readVector (s : State) (vector : Addr) : Addr × State :=
  let (lo, s) := s.read vector
  let (hi, s) := s.read (vector + 1)
  (join hi lo, s)

/-! ## Registers and flags -/

/-- `setNZ(v)` of 00_scope.md R10. -/
def State.setNZ (s : State) (v : Byte) : State := { s with flags := s.flags.setNZ v }

/-! ## Taking an exception, and returning from one -/

/-- The vectors of 60_exceptions.md R279. -/
def nmiVector : Addr := 0xFFFA
/-- The vectors of 60_exceptions.md R279. -/
def resetVector : Addr := 0xFFFC
/-- The vectors of 60_exceptions.md R279. -/
def irqVector : Addr := 0xFFFE

/-- The entry that BRK and the two interrupts share (46_stack_system.md R235, 60_exceptions.md R278): push PC high,
PC low, the status byte with bit 4 as given; set I; load PC from the vector. -/
def State.enterException (s : State) (vector : Addr) (bit4 : Bool) : State :=
  let s := s.pushWord s.pc
  let s := s.push (s.flags.statusByte bit4)
  let s := { s with flags := { s.flags with i := true } }
  let (target, s) := s.readVector vector
  { s with pc := target }

/-- The return (46_stack_system.md R236, 60_exceptions.md R281): pop the status byte into all seven flags, then PC
low, then PC high, with no adjustment. -/
def State.returnFromException (s : State) : State :=
  let (status, s) := s.pop
  let s := { s with flags := Flags.ofStatus status }
  let (target, s) := s.popWord
  { s with pc := target }

/-- INT_CYCLES of 00_scope.md R7: the cost of an interrupt entry (49_execution_engine.md R249, D19), in this machine's
configuration. -/
def intCycles : Nat := Config.parameters.intCycles

/-- The vector of each interrupt line (60_exceptions.md R279). -/
def InterruptKind.vector : InterruptKind → Addr
  | .nmi => nmiVector
  | .irq => irqVector

/-- An Idle tick that takes an interrupt in place of a fetch, under any parameters (49_execution_engine.md R242,
60_exceptions.md R278). -/
def State.takeInterruptWith (s : State) (p : Parameters) (kind : InterruptKind) : State :=
  let s := s.enterException kind.vector false
  { s with latency := BitVec.ofNat 3 (p.intCycles - 1), result := some (.interrupt kind p.intCycles) }

/-- The same in this machine's configuration. -/
def State.takeInterrupt (s : State) (kind : InterruptKind) : State := s.takeInterruptWith Config.parameters kind

/-- A Running tick (49_execution_engine.md R241). -/
def State.countDown (s : State) : State :=
  { s with latency := s.latency - 1, result := some (.counted (s.latency - 1)) }

/-! ## Reset and the host's turn -/

/-- The reset operation (70_reset_and_hazards.md R300, R301), for any reset values. No tick, no stack access;
memory, the bus, the request lines and the host's schedule are not the core's and stay. -/
def State.resetWith (s : State) (r : ResetValues) : State :=
  let s := { s with
    a := r.a, x := r.x, y := r.y, sp := r.sp,
    flags := { n := r.n, v := r.v, b := r.b, d := r.d, i := r.i, z := r.z, c := r.c },
    latency := 0, nmiPrev := false, result := none }
  let (target, s) := s.readVector resetVector
  { s with pc := target }

/-- One move of the host between two ticks (log entry 4). -/
def State.hostMove (s : State) : HostMove → State
  | .lines nmi irq => { s with nmi := nmi, irq := irq }
  | .reset => s.resetWith Config.parameters.resetValues
  | .poke addr value => { s with mem := s.mem.set addr.toNat value }
  | .remap bus => { s with bus := bus }

/-- The host's turn before a tick: the transactions of the tick before pass into the bus's past, and the moves scheduled
for this tick are made in order. -/
def State.hostTurn (s : State) : State :=
  let moves := s.schedule.headD []
  moves.foldl State.hostMove
    { s with accesses := [], busPast := s.busSeen ++ [.turn moves], schedule := s.schedule.tail }

end Sys2Proof.Machine
end

