-- ==== Sys2Proof/Machine/Operands.lean ====
section
/-! DEFINITION. The addressing resolver: every operand form (40_addressing_resolver.md R110 to R125). The operand
bytes have been read and PC advanced past them by the fetch (Machine/Fetch.lean), in the order of 20_memory.md R60;
what is left of the resolver is the address arithmetic, the pointer reads and the extra-cycle signal. -/

namespace Sys2Proof.Machine

/-- The resolver's result for a memory mode (R112): the effective address, the extra-cycle signal, and the state
after the pointer reads. -/
structure Resolved where
  addr : Addr
  extra : Bool
  after : State
  deriving DecidableEq, Repr

/-- A two-byte pointer in page 0 (R124, R125, 20_memory.md R58 (c)): low byte at p, high byte at (p + 1) mod 256. -/
def State.readZeroPagePointer (s : State) (p : Byte) : Addr × State :=
  let (lo, s) := s.read (zext16 p)
  let (hi, s) := s.read (zext16 (p + 1))
  (join hi lo, s)

/-- An address and an unsigned index (R120, R121, R125): modulo 65536, `extra` when the page changes. -/
def indexed (base : Addr) (index : Byte) (s : State) : Resolved where
  addr := base + zext16 index
  extra := pageCross base (base + zext16 index)
  after := s

/-- What a read operand gives: its value, the extra-cycle signal, and the state after the reads. -/
structure Loaded where
  value : Byte
  extra : Bool
  after : State
  deriving DecidableEq, Repr

/-- The target of a relative branch and its extra-cycle signal (R122): the offset is signed, added to the address of
the next instruction modulo 65536, and the two pages are compared. -/
def branchTarget (next : Addr) (d : Byte) : Addr × Bool :=
  (next + sext16 d, pageCross next (next + sext16 d))

end Sys2Proof.Machine

namespace Sys2Proof

open Sys2Proof.Machine

/-- The resolver on the eight memory modes. -/
def MemOperand.resolve (m : MemOperand) (s : State) : Resolved :=
  match m with
  | .zp d => { addr := zext16 d, extra := false, after := s }
  | .zpx d => { addr := zext16 (d + s.x), extra := false, after := s }
  | .zpy d => { addr := zext16 (d + s.y), extra := false, after := s }
  | .abs a => { addr := a, extra := false, after := s }
  | .abx base => indexed base s.x s
  | .aby base => indexed base s.y s
  | .izx d =>
    let (a, s) := s.readZeroPagePointer (d + s.x)
    { addr := a, extra := false, after := s }
  | .izy d =>
    let (base, s) := s.readZeroPagePointer d
    indexed base s.y s

/-- `load(op)` of 00_scope.md R10 for a memory operand: resolve, then one read at the effective address. -/
def MemOperand.load (m : MemOperand) (s : State) : Loaded :=
  let r := m.resolve s
  let (v, s) := r.after.read r.addr
  { value := v, extra := r.extra, after := s }

/-- `load(op)` of 00_scope.md R10 for `Imm(v)` and `Addr(a)`. -/
def Source.load (o : Source) (s : State) : Loaded :=
  match o with
  | .imm v => { value := v, extra := false, after := s }
  | .mem m => m.load s

/-- A read-modify-write (20_memory.md R61, 43_shift_rotate.md R190): one read, one write, at `A` or at the effective
address; `f` gives the new byte from the old. The extra-cycle signal is answered too. -/
def Place.modify (p : Place) (f : Byte → Byte) (s : State) : Loaded :=
  match p with
  | .acc => { value := s.a, extra := false, after := { s with a := f s.a } }
  | .mem m =>
    let r := m.resolve s
    let (v, s) := r.after.read r.addr
    { value := v, extra := r.extra, after := s.write r.addr (f v) }

/-- The target of JMP (R119, R123). Indirect keeps the page of the pointer: the high byte of the target is read at
`hi:((lo + 1) mod 256)`. -/
def JumpOperand.resolve (j : JumpOperand) (s : State) : Addr × State :=
  match j with
  | .abs a => (a, s)
  | .ind ptr =>
    let (tl, s) := s.read ptr
    let (th, s) := s.read (join (hiByte ptr) (loByte ptr + 1))
    (join th tl, s)

end Sys2Proof
end

