-- ==== Sys2Proof/Machine/Arithmetic.lean ====
section
/-! DEFINITION. Arithmetic, logic, compare, increment and decrement (42_arithmetic_logic.md R160 to R177). D is read by
none of them (R177). -/

namespace Sys2Proof.Machine

/-- ADC (R161): A + M + C in nine bits; C is bit 8, V the signed overflow from the old A. -/
def execAdc (o : Source) (s : State) : Host.Outcome State Fault Refusal :=
  let l := o.load s
  let t := l.after
  retire (.adc o) s.pc l.extra 0
    { t with
      a := addResult t.a l.value t.flags.c
      flags := t.flags.setArith (addResult t.a l.value t.flags.c) (addCarry t.a l.value t.flags.c)
        (addOverflow t.a l.value t.flags.c) }

/-- SBC (R162): ADC of the one's complement of the operand; C = 1 is no borrow. -/
def execSbc (o : Source) (s : State) : Host.Outcome State Fault Refusal :=
  let l := o.load s
  let t := l.after
  let mc := l.value ^^^ 0xFF
  retire (.sbc o) s.pc l.extra 0
    { t with
      a := addResult t.a mc t.flags.c
      flags := t.flags.setArith (addResult t.a mc t.flags.c) (addCarry t.a mc t.flags.c)
        (addOverflow t.a mc t.flags.c) }

/-- AND (R163): A becomes the bitwise and, N and Z from it. -/
def execAnd (o : Source) (s : State) : Host.Outcome State Fault Refusal :=
  let l := o.load s
  let r := l.after.a &&& l.value
  retire (.and o) s.pc l.extra 0 ({ l.after with a := r }.setNZ r)

/-- ORA (R164): A becomes the bitwise or, N and Z from it. -/
def execOra (o : Source) (s : State) : Host.Outcome State Fault Refusal :=
  let l := o.load s
  let r := l.after.a ||| l.value
  retire (.ora o) s.pc l.extra 0 ({ l.after with a := r }.setNZ r)

/-- EOR (R165): A becomes the bitwise exclusive or, N and Z from it. -/
def execEor (o : Source) (s : State) : Host.Outcome State Fault Refusal :=
  let l := o.load s
  let r := l.after.a ^^^ l.value
  retire (.eor o) s.pc l.extra 0 ({ l.after with a := r }.setNZ r)

/-- BIT (R166): Z from A and M, N and V copied from M; A unchanged. -/
def execBit (m : MemOperand) (s : State) : Host.Outcome State Fault Refusal :=
  let l := m.load s
  let t := l.after
  retire (.bit m) s.pc l.extra 0 { t with flags := t.flags.setBit t.a l.value }

/-- CMP (R167): A against M; N, Z, C only. -/
def execCmp (o : Source) (s : State) : Host.Outcome State Fault Refusal :=
  let l := o.load s
  let t := l.after
  retire (.cmp o) s.pc l.extra 0 { t with flags := t.flags.setCompare t.a l.value }

/-- CPX (R168): X against M; N, Z, C only. -/
def execCpx (o : Source) (s : State) : Host.Outcome State Fault Refusal :=
  let l := o.load s
  let t := l.after
  retire (.cpx o) s.pc l.extra 0 { t with flags := t.flags.setCompare t.x l.value }

/-- CPY (R169): Y against M; N, Z, C only. -/
def execCpy (o : Source) (s : State) : Host.Outcome State Fault Refusal :=
  let l := o.load s
  let t := l.after
  retire (.cpy o) s.pc l.extra 0 { t with flags := t.flags.setCompare t.y l.value }

/-- INC (R170): M + 1 modulo 256, one read and one write; N and Z, never C or V. -/
def execInc (m : MemOperand) (s : State) : Host.Outcome State Fault Refusal :=
  let l := (Place.mem m).modify (fun v => v + 1) s
  retire (.inc m) s.pc l.extra 0 (l.after.setNZ (l.value + 1))

/-- DEC (R171): M - 1 modulo 256, one read and one write; N and Z, never C or V. -/
def execDec (m : MemOperand) (s : State) : Host.Outcome State Fault Refusal :=
  let l := (Place.mem m).modify (fun v => v - 1) s
  retire (.dec m) s.pc l.extra 0 (l.after.setNZ (l.value - 1))

/-- INX (R172): X + 1 modulo 256; N and Z. -/
def execInx (s : State) : Host.Outcome State Fault Refusal :=
  retire .inx s.pc false 0 ({ s with x := s.x + 1 }.setNZ (s.x + 1))

/-- INY (R173): Y + 1 modulo 256; N and Z. -/
def execIny (s : State) : Host.Outcome State Fault Refusal :=
  retire .iny s.pc false 0 ({ s with y := s.y + 1 }.setNZ (s.y + 1))

/-- DEX (R174): X - 1 modulo 256; N and Z. -/
def execDex (s : State) : Host.Outcome State Fault Refusal :=
  retire .dex s.pc false 0 ({ s with x := s.x - 1 }.setNZ (s.x - 1))

/-- DEY (R175): Y - 1 modulo 256; N and Z. -/
def execDey (s : State) : Host.Outcome State Fault Refusal :=
  retire .dey s.pc false 0 ({ s with y := s.y - 1 }.setNZ (s.y - 1))

end Sys2Proof.Machine
end

