-- ==== Sys2Proof/Machine/BranchJump.lean ====
section
/-! DEFINITION. Branches, jumps, subroutine call and return (45_branch_jump.md R210 to R222). -/

namespace Sys2Proof.Machine

/-- What the eight conditional branches share (R210): the target to PC if the condition holds; one more cycle if
taken, one more if taken into another page (49_execution_engine.md R248). -/
def branchOp (i : Instr) (cond : Bool) (d : Byte) (s : State) : Host.Outcome State Fault Refusal :=
  let (target, extra) := branchTarget s.pc d
  if cond then retire i s.pc extra (1 + if extra then 1 else 0) { s with pc := target }
  else retire i s.pc extra 0 s

/-- BCC (R211): taken if C == 0. -/
def execBcc (d : Byte) (s : State) : Host.Outcome State Fault Refusal :=
  branchOp (.bcc d) (s.flags.c == false) d s

/-- BCS (R212): taken if C == 1. -/
def execBcs (d : Byte) (s : State) : Host.Outcome State Fault Refusal :=
  branchOp (.bcs d) (s.flags.c == true) d s

/-- BEQ (R213): taken if Z == 1. -/
def execBeq (d : Byte) (s : State) : Host.Outcome State Fault Refusal :=
  branchOp (.beq d) (s.flags.z == true) d s

/-- BNE (R214): taken if Z == 0. -/
def execBne (d : Byte) (s : State) : Host.Outcome State Fault Refusal :=
  branchOp (.bne d) (s.flags.z == false) d s

/-- BMI (R215): taken if N == 1. -/
def execBmi (d : Byte) (s : State) : Host.Outcome State Fault Refusal :=
  branchOp (.bmi d) (s.flags.n == true) d s

/-- BPL (R216): taken if N == 0. -/
def execBpl (d : Byte) (s : State) : Host.Outcome State Fault Refusal :=
  branchOp (.bpl d) (s.flags.n == false) d s

/-- BVC (R217): taken if V == 0. -/
def execBvc (d : Byte) (s : State) : Host.Outcome State Fault Refusal :=
  branchOp (.bvc d) (s.flags.v == false) d s

/-- BVS (R218): taken if V == 1. -/
def execBvs (d : Byte) (s : State) : Host.Outcome State Fault Refusal :=
  branchOp (.bvs d) (s.flags.v == true) d s

/-- JMP (R219): PC becomes the target; no link. -/
def execJmp (j : JumpOperand) (s : State) : Host.Outcome State Fault Refusal :=
  let (target, t) := j.resolve s
  retire (.jmp j) s.pc false 0 { t with pc := target }

/-- JSR (R220): push the address of its own last byte, high byte first; PC becomes the target. -/
def execJsr (a : Addr) (s : State) : Host.Outcome State Fault Refusal :=
  retire (.jsr a) s.pc false 0 { s.pushWord (s.pc - 1) with pc := a }

/-- RTS (R221): pop low, pop high, PC becomes that plus 1 modulo 65536. -/
def execRts (s : State) : Host.Outcome State Fault Refusal :=
  let (target, t) := s.popWord
  retire .rts s.pc false 0 { t with pc := target + 1 }

end Sys2Proof.Machine
end

