-- ==== Sys2Proof/Machine/FlagControl.lean ====
section
/-! DEFINITION. Flag set and clear instructions, NOP (44_flags_nop.md R200 to R208). -/

namespace Sys2Proof.Machine

/-- CLC (R201): C <- 0, no other flag. -/
def execClc (s : State) : Host.Outcome State Fault Refusal :=
  retire .clc s.pc false 0 { s with flags := { s.flags with c := false } }

/-- SEC (R202): C <- 1, no other flag. -/
def execSec (s : State) : Host.Outcome State Fault Refusal :=
  retire .sec s.pc false 0 { s with flags := { s.flags with c := true } }

/-- CLI (R203): I <- 0, no other flag. -/
def execCli (s : State) : Host.Outcome State Fault Refusal :=
  retire .cli s.pc false 0 { s with flags := { s.flags with i := false } }

/-- SEI (R204): I <- 1, no other flag. -/
def execSei (s : State) : Host.Outcome State Fault Refusal :=
  retire .sei s.pc false 0 { s with flags := { s.flags with i := true } }

/-- CLD (R205): D <- 0, no other flag. -/
def execCld (s : State) : Host.Outcome State Fault Refusal :=
  retire .cld s.pc false 0 { s with flags := { s.flags with d := false } }

/-- SED (R206): D <- 1, no other flag. -/
def execSed (s : State) : Host.Outcome State Fault Refusal :=
  retire .sed s.pc false 0 { s with flags := { s.flags with d := true } }

/-- CLV (R207): V <- 0, no other flag. -/
def execClv (s : State) : Host.Outcome State Fault Refusal :=
  retire .clv s.pc false 0 { s with flags := { s.flags with v := false } }

/-- NOP (R208): nothing. -/
def execNop (s : State) : Host.Outcome State Fault Refusal :=
  retire .nop s.pc false 0 s

end Sys2Proof.Machine
end

