-- ==== Sys2Proof/Machine/LoadStore.lean ====
section
/-! DEFINITION. Loads, stores and register transfers (41_load_store_transfer.md R140 to R152). Every meaning starts at
the state after the fetch: PC is the address of the next instruction (R140). -/

namespace Sys2Proof.Machine

/-- LDA (R141): the value to A, N and Z from it. -/
def execLda (o : Source) (s : State) : Host.Outcome State Fault Refusal :=
  let l := o.load s
  retire (.lda o) s.pc l.extra 0 ({ l.after with a := l.value }.setNZ l.value)

/-- LDX (R142): the value to X, N and Z from it. -/
def execLdx (o : Source) (s : State) : Host.Outcome State Fault Refusal :=
  let l := o.load s
  retire (.ldx o) s.pc l.extra 0 ({ l.after with x := l.value }.setNZ l.value)

/-- LDY (R143): the value to Y, N and Z from it. -/
def execLdy (o : Source) (s : State) : Host.Outcome State Fault Refusal :=
  let l := o.load s
  retire (.ldy o) s.pc l.extra 0 ({ l.after with y := l.value }.setNZ l.value)

/-- STA (R144): A to the effective address, which is not read; no flag. -/
def execSta (m : MemOperand) (s : State) : Host.Outcome State Fault Refusal :=
  let r := m.resolve s
  retire (.sta m) s.pc r.extra 0 (r.after.write r.addr r.after.a)

/-- STX (R145): X to the effective address, which is not read; no flag. -/
def execStx (m : MemOperand) (s : State) : Host.Outcome State Fault Refusal :=
  let r := m.resolve s
  retire (.stx m) s.pc r.extra 0 (r.after.write r.addr r.after.x)

/-- STY (R146): Y to the effective address, which is not read; no flag. -/
def execSty (m : MemOperand) (s : State) : Host.Outcome State Fault Refusal :=
  let r := m.resolve s
  retire (.sty m) s.pc r.extra 0 (r.after.write r.addr r.after.y)

/-- TAX (R147): A to X, N and Z from the value moved. -/
def execTax (s : State) : Host.Outcome State Fault Refusal :=
  retire .tax s.pc false 0 ({ s with x := s.a }.setNZ s.a)

/-- TAY (R148): A to Y, N and Z from the value moved. -/
def execTay (s : State) : Host.Outcome State Fault Refusal :=
  retire .tay s.pc false 0 ({ s with y := s.a }.setNZ s.a)

/-- TXA (R149): X to A, N and Z from the value moved. -/
def execTxa (s : State) : Host.Outcome State Fault Refusal :=
  retire .txa s.pc false 0 ({ s with a := s.x }.setNZ s.x)

/-- TYA (R150): Y to A, N and Z from the value moved. -/
def execTya (s : State) : Host.Outcome State Fault Refusal :=
  retire .tya s.pc false 0 ({ s with a := s.y }.setNZ s.y)

/-- TSX (R151): SP to X, N and Z from the value moved. -/
def execTsx (s : State) : Host.Outcome State Fault Refusal :=
  retire .tsx s.pc false 0 ({ s with x := s.sp }.setNZ s.sp)

/-- TXS (R152): X to SP; the one transfer that writes no flag (90_conflicts.md C2). -/
def execTxs (s : State) : Host.Outcome State Fault Refusal :=
  retire .txs s.pc false 0 { s with sp := s.x }

end Sys2Proof.Machine
end

