-- ==== Sys2Proof/Machine/ShiftRotate.lean ====
section
/-! DEFINITION. Shifts and rotates (43_shift_rotate.md R190 to R194), by one bit position, on A or on memory. -/

namespace Sys2Proof.Machine

/-- What the four share (R190): read, shift with the old carry, write back; N and Z from the result, C the bit
shifted out. -/
def shiftOp (i : Instr) (f : Byte → Bool → Byte × Bool) (p : Place) (s : State) :
    Host.Outcome State Fault Refusal :=
  let l := p.modify (fun v => (f v s.flags.c).1) s
  let r := f l.value s.flags.c
  retire i s.pc l.extra 0 { l.after with flags := l.after.flags.setShift r.1 r.2 }

/-- ASL (R191). -/
def execAsl (p : Place) (s : State) : Host.Outcome State Fault Refusal :=
  shiftOp (.asl p) shiftLeft p s

/-- LSR (R192). -/
def execLsr (p : Place) (s : State) : Host.Outcome State Fault Refusal :=
  shiftOp (.lsr p) shiftRight p s

/-- ROL (R193). -/
def execRol (p : Place) (s : State) : Host.Outcome State Fault Refusal :=
  shiftOp (.rol p) rotateLeft p s

/-- ROR (R194). -/
def execRor (p : Place) (s : State) : Host.Outcome State Fault Refusal :=
  shiftOp (.ror p) rotateRight p s

end Sys2Proof.Machine
end

