-- ==== Sys2Proof/Machine/Stack.lean ====
section
/-! DEFINITION. Stack and system instructions (46_stack_system.md R230 to R236) and the UNDEFINED bytes
(49_execution_engine.md R251, 60_exceptions.md R270). -/

namespace Sys2Proof.Machine

/-- PHA (R231): push A; no flag. -/
def execPha (s : State) : Host.Outcome State Fault Refusal :=
  retire .pha s.pc false 0 (s.push s.a)

/-- PHP (R232): push the status byte with bit 4 = 1; the stored B is neither read nor changed. -/
def execPhp (s : State) : Host.Outcome State Fault Refusal :=
  retire .php s.pc false 0 (s.push (s.flags.statusByte true))

/-- PLA (R233): pop A; N and Z. -/
def execPla (s : State) : Host.Outcome State Fault Refusal :=
  let (v, t) := s.pop
  retire .pla s.pc false 0 ({ t with a := v }.setNZ v)

/-- PLP (R234): pop all seven flags, B included; bit 5 ignored. -/
def execPlp (s : State) : Host.Outcome State Fault Refusal :=
  let (v, t) := s.pop
  retire .plp s.pc false 0 { t with flags := Flags.ofStatus v }

/-- BRK (R235): skip the padding byte without reading it, then take the exception at the IRQ/BRK vector with bit 4 = 1. -/
def execBrk (s : State) : Host.Outcome State Fault Refusal :=
  retire .brk s.pc false 0 ({ s with pc := s.pc + 1 }.enterException irqVector true)

/-- RTI (R236): return from the exception; no + 1, unlike RTS. -/
def execRti (s : State) : Host.Outcome State Fault Refusal :=
  retire .rti s.pc false 0 s.returnFromException

/-- An UNDEFINED byte (R251): the tick ends at once and reports IllegalOpcode(opcode, pc0); PC has advanced past
the byte, every other register, every flag and `latency` are as before, no further bus access. The owning system's
policy (R7) says whether it goes on ticking (log entry 7). A byte that the parameter UNDOCUMENTED names has no effect
in the spec; there is none (log entry 14). -/
def execUndefined (opcode : Byte) (s : State) : Host.Outcome State Fault Refusal :=
  if Config.parameters.undocumented.contains opcode then .refused (.undocumentedOpcode opcode)
  else
    match s.policy with
    | .report => .next { s with result := some (.illegalOpcode opcode (s.pc - 1)) }
    | .halt => .fault (.illegalOpcode opcode (s.pc - 1))

end Sys2Proof.Machine
end

