-- ==== Sys2Proof/Machine/Fetch.lean ====
section
/-! DEFINITION. Fetching an instruction's bytes: the opcode byte by the engine (49_execution_engine.md R242), the
operand bytes by the resolver (40_addressing_resolver.md R111), each read through the bus at PC and followed by
PC + 1 modulo 65536. -/

namespace Sys2Proof.Machine

/-- `MemRead(PC, 1); pc <- PC + 1`. -/
def State.fetchByte (s : State) : Byte × State :=
  let (v, s) := s.read s.pc
  (v, { s with pc := s.pc + 1 })

/-- Fetch and decode one instruction: as many bytes as its opcode byte's entry asks for, and no other (R59, R60). -/
def State.fetch (s : State) : Instr × State :=
  let (opcode, s) := s.fetchByte
  match slotOf opcode with
  | .undef => (.undefined opcode, s)
  | .one i => (i, s)
  | .two f =>
    let (d, s) := s.fetchByte
    (f d, s)
  | .three f =>
    let (lo, s) := s.fetchByte
    let (hi, s) := s.fetchByte
    (f (join hi lo), s)

end Sys2Proof.Machine
end

