-- ==== Sys2Proof/Machine/Tick.lean ====
section
/-! DEFINITION. The execution engine (49_execution_engine.md R240 to R244) on one tick, and placing an instruction
where the next tick fetches it. -/

namespace Sys2Proof.Machine

/-- Whether this Idle tick takes an NMI: an edge against the level of the last Idle tick (60_exceptions.md R275). -/
def State.nmiTaken (s : State) : Bool := s.nmi && !s.nmiPrev

/-- Whether this Idle tick takes an IRQ, if no NMI: the level, gated by I (R276). -/
def State.irqTaken (s : State) : Bool := s.irq && !s.flags.i

/-- The Idle sample of the nmi line (R275, 49_execution_engine.md R242). -/
def State.sampleLines (s : State) : State := { s with nmiPrev := s.nmi }

/-- One tick of the engine: Running counts down (R241); Idle takes an NMI, else an IRQ, else fetches and performs
one instruction (R242, 60_exceptions.md R277). -/
def tick (s : State) : Host.Outcome State Fault Refusal :=
  if s.latency = 0 then
    if s.nmiTaken then .next (s.sampleLines.takeInterrupt .nmi)
    else if s.irqTaken then .next (s.sampleLines.takeInterrupt .irq)
    else
      let (i, t) := s.sampleLines.fetch
      exec i t
  else .next s.countDown

/-- A byte put into RAM at an address: whatever answered there before, RAM answers now. -/
def State.placeByte (s : State) (a : Addr) (v : Byte) : State :=
  { s with
    mem := s.mem.set a.toNat v
    bus :=
      if s.unitAt a = .ram then s.bus
      else { s.bus with regions := { base := a.toNat, size := 1, answers := .ram } :: s.bus.regions } }

/-- Bytes put at consecutive addresses, modulo 65536. -/
def State.placeBytes (s : State) (a : Addr) : List Byte → State
  | [] => s
  | v :: rest => State.placeBytes (s.placeByte a v) (a + 1) rest

/-- `s` with bytes stored where the next tick fetches, that tick Idle, and nothing that would pre-empt the fetch:
no request line asserted, no host move before it. -/
def State.withFetchBytes (s : State) (bytes : List Byte) : State :=
  { s.placeBytes s.pc bytes with latency := 0, nmi := false, irq := false, schedule := [] }

end Sys2Proof.Machine
end

