-- ==== Sys2Proof/Machine/Step.lean ====
section
/-! DEFINITION. One step of the machine: the host's turn, then one tick (49_execution_engine.md R240; log entry 6). -/

namespace Sys2Proof.Machine

/-- One step: what the host does between two ticks, then the tick. -/
def step (s : State) : Host.Outcome State Fault Refusal := tick s.hostTurn

/-- `s` with the instruction whose bits are `w` stored where step fetches its next instruction. -/
def State.withFetchWord (s : State) (nbits w : Nat) : State := s.withFetchBytes (tableBytes nbits w)

end Sys2Proof.Machine
end

