-- ==== Sys2Proof/Safety.lean ====
section
/-! DEFINITION. What counts as a safe run, the invariant of the machine, and the vocabulary the statements are written
in. Numbers (Nat, Int) are used where the rules speak of values, so that a statement is not a copy of a definition. -/

namespace Sys2Proof.Machine

/-! ## Safe runs -/

/-- No IllegalOpcode has been reported by the last tick: "a state reached through IllegalOpcode is never a good final
state" (60_exceptions.md R270). -/
def State.noIllegalOpcode (s : State) : Bool :=
  match s.result with
  | some (.illegalOpcode _ _) => false
  | some (.counted _) => true
  | some (.executed _ _ _) => true
  | some (.interrupt _ _) => true
  | none => true

/-- `k` steps, stopping at the first fault or refusal. -/
def steps : Nat → State → Host.Outcome State Fault Refusal
  | 0, s => .next s
  | k + 1, s =>
    match step s with
    | .next t => steps k t
    | .fault r => .fault r
    | .refused r => .refused r

/-- The first `n` ticks from `s` neither stop nor report IllegalOpcode. -/
def SafeRun (n : Nat) (s : State) : Prop :=
  ∀ k, k ≤ n → ∃ t : State, steps k s = .next t ∧ t.noIllegalOpcode = true

/-! ## The invariant -/

/-- What the last tick's result says of `latency` (49_execution_engine.md R241, R242, R243, R251, R252). -/
def State.ResultFits (s : State) : Prop :=
  match s.result with
  | none => s.latency = 0
  | some (.counted left) => s.latency = left
  | some (.executed _ _ total) => 2 ≤ total ∧ total ≤ 7 ∧ s.latency.toNat + 1 = total
  | some (.interrupt _ total) => total = intCycles ∧ s.latency.toNat + 1 = total
  | some (.illegalOpcode _ _) => s.latency = 0

/-- The invariant: memory in its canonical form, latency in 0..6 (10_state.md R33, R41), and the result of the last
tick in agreement with latency. -/
def State.Inv (s : State) : Prop :=
  s.mem.wf = true ∧ s.latency.toNat ≤ 6 ∧ s.ResultFits

/-! ## Frames -/

/-- The interrupt sample, the inputs, the owning system's policy, the bus and its past are as before. -/
def SameSurroundings (s t : State) : Prop :=
  t.nmiPrev = s.nmiPrev ∧ t.nmi = s.nmi ∧ t.irq = s.irq ∧ t.schedule = s.schedule ∧ t.policy = s.policy ∧
    t.bus = s.bus ∧ t.busPast = s.busPast

/-- A, X, Y and SP are as before. -/
def SameRegisters (s t : State) : Prop := t.a = s.a ∧ t.x = s.x ∧ t.y = s.y ∧ t.sp = s.sp

/-- Every byte of memory reads as before. -/
def SameMemory (s t : State) : Prop := ∀ b : Addr, t.peek b = s.peek b

/-- Memory changes by the listed stores and by nothing else: a byte outside them reads as before, a RAM byte among
them reads as stored, and no byte changes where RAM does not answer. -/
def StoresOnly (s t : State) (stores : List (Addr × Byte)) : Prop :=
  (∀ b : Addr, b ∉ stores.map Prod.fst → t.peek b = s.peek b) ∧
  (∀ w ∈ stores, s.unitAt w.1 = .ram → t.peek w.1 = w.2) ∧
  (∀ b : Addr, s.unitAt b ≠ .ram → t.peek b = s.peek b)

/-- The bus has seen the same transactions in both states. -/
def SameBus (s t : State) : Prop := t.accesses = s.accesses ∧ t.busPast = s.busPast

/-- What no instruction that only reads its operand changes: SP, PC, memory, the surroundings; and the bus has seen
exactly the reads of the operand, those of the state `after`. -/
def ReadOnlyFrame (after s t : State) : Prop :=
  t.sp = s.sp ∧ t.pc = s.pc ∧ SameMemory s t ∧ SameSurroundings s t ∧ SameBus after t

/-! ## Flags and costs as numbers -/

/-- N and Z of a byte: N if it is 128 or more, Z if it is 0 (00_scope.md R10, `setNZ`). -/
def flagsNZ (f : Flags) (v : Nat) : Flags := { f with n := decide (128 ≤ v), z := decide (v = 0) }

/-- A flag as a number (00_scope.md R8). -/
def bitValue (b : Bool) : Nat := if b then 1 else 0

/-- The tick's result is `Executed(opcode, pc0, total)` and latency is total - 1; `s` is the state after the fetch, so
that pc0 is its PC minus the instruction's length (49_execution_engine.md R242, R243, R252). -/
def Retired (opcode : Byte) (length total : Nat) (s t : State) : Prop :=
  t.result = some (.executed opcode (s.pc - BitVec.ofNat 16 length) total) ∧ t.latency.toNat + 1 = total

/-- The cycle counts the read instructions' rules print, before the page-cross cycle
(41_load_store_transfer.md R141, 42_arithmetic_logic.md R161); 0 for a mode none of them has. -/
def readCost : Mode → Nat
  | .imm => 2
  | .zp => 3
  | .zpx => 4
  | .zpy => 4
  | .abs => 4
  | .abx => 4
  | .aby => 4
  | .izx => 6
  | .izy => 5
  | .acc => 0
  | .imp => 0
  | .rel => 0
  | .ind => 0
  | .undefined => 0

/-- The cycle counts the stores' rules print (R144 to R146); 0 for a mode none of them has. -/
def storeCost : Mode → Nat
  | .zp => 3
  | .zpx => 4
  | .zpy => 4
  | .abs => 4
  | .abx => 5
  | .aby => 5
  | .izx => 6
  | .izy => 6
  | .imm => 0
  | .acc => 0
  | .imp => 0
  | .rel => 0
  | .ind => 0
  | .undefined => 0

/-- The cycle counts the read-modify-write rules print (R170, R171, 43_shift_rotate.md R190); 0 for a mode none of
them has. -/
def modifyCost : Mode → Nat
  | .acc => 2
  | .zp => 5
  | .zpx => 6
  | .abs => 6
  | .abx => 7
  | .imm => 0
  | .zpy => 0
  | .aby => 0
  | .izx => 0
  | .izy => 0
  | .imp => 0
  | .rel => 0
  | .ind => 0
  | .undefined => 0

/-! ## The stack slots -/

/-- The stack slot `k` places from the one SP points at: 0x0100 + ((SP + k) mod 256) (20_memory.md R57). -/
def slotAbove (s : State) (k : Nat) : Addr := BitVec.ofNat 16 (256 + (s.sp.toNat + k) % 256)

/-- The slot of the push number `k` (from 0): 0x0100 + ((SP - k) mod 256) (20_memory.md R57, R60). -/
def slotBelow (s : State) (k : Nat) : Addr := BitVec.ofNat 16 (256 + (s.sp.toNat + 256 - k) % 256)

/-! ## The bytes a fetch sees -/

/-- The state after `k` bytes have been fetched at PC. -/
def State.afterFetch (s : State) : Nat → State
  | 0 => s
  | k + 1 => { (s.afterFetch k).afterRead (s.afterFetch k).pc with pc := (s.afterFetch k).pc + 1 }

/-- The next three bytes the bus answers at PC, PC + 1, PC + 2. -/
def State.nextBytes (s : State) : List Byte :=
  [(s.afterFetch 0).answer (s.afterFetch 0).pc, (s.afterFetch 1).answer (s.afterFetch 1).pc,
    (s.afterFetch 2).answer (s.afterFetch 2).pc]

/-! ## Two runs that differ in one flag -/

/-- The state with another value in the stored B. -/
def State.withB (s : State) (b : Bool) : State := { s with flags := { s.flags with b := b } }

/-- The state with another value in D. -/
def State.withD (s : State) (d : Bool) : State := { s with flags := { s.flags with d := d } }

/-- Two outcomes that agree once the two next states are seen through `f`. -/
def AgreeUpTo (f : State → State) (o p : Host.Outcome State Fault Refusal) : Prop :=
  match o, p with
  | .next t, .next u => f t = f u
  | .fault r, .fault q => r = q
  | .refused r, .refused q => r = q
  | .next _, .fault _ => False
  | .next _, .refused _ => False
  | .fault _, .next _ => False
  | .fault _, .refused _ => False
  | .refused _, .next _ => False
  | .refused _, .fault _ => False

/-- The bus transactions of `t` that `s` had not made. -/
def newAccesses (s t : State) : List BusAccess := t.accesses.drop s.accesses.length

end Sys2Proof.Machine
end

