-- ==== Sys2Proof/Certificates/Slice0/Obligations.lean ====
section
/-! DEFINITION. The statements for the provers. Each says what the machine does in the words of numbered rules of the
spec; the title and the cites of each stand in OBLIGATIONS.json. `exec i s` runs from the state after the fetch of
i's bytes (log entry 6), so that `s.pc` is the address of the next instruction. -/

open Sys2Proof Sys2Proof.Machine

/-- Decoding the encoding of any well-formed instruction gives it back. (30_encoding.md R80, R84, R86, R87) -/
def Obligations.DecodeOfEncode : Prop :=
  ∀ (i : Instr) (rest : List Byte), i.wf = true → decode (encode i ++ rest) = .ok (i, rest)

/-- What decodes is well-formed, and its encoding is the bytes it was decoded from. (30_encoding.md R80, R84, R85,
R86, R87) -/
def Obligations.EncodeOfDecode : Prop :=
  ∀ (bytes rest : List Byte) (i : Instr),
    decode bytes = .ok (i, rest) → i.wf = true ∧ encode i ++ rest = bytes

/-- The decode table is total: the sentinel pair on the 105 bytes of R88, a kind and a mode on every other byte.
(30_encoding.md R85, R86, R88) -/
def Obligations.SentinelExactlyOnUndefinedBytes : Prop :=
  (∀ opcode : Byte, ((decodeKindMode opcode).1 = .undefined ↔ opcode ∈ undefinedBytes) ∧
      ((decodeKindMode opcode).2 = .undefined ↔ opcode ∈ undefinedBytes)) ∧
    undefinedBytes.length = 105

/-- The number of bytes of a well-formed instruction is a function of its mode: 1, 2 or 3. (30_encoding.md R80, R83) -/
def Obligations.EncodedLengthIsModeLength : Prop :=
  ∀ i : Instr, i.wf = true →
    (i.mode ∈ [.imp, .acc, .undefined] → (encode i).length = 1) ∧
    (i.mode ∈ [.imm, .zp, .zpx, .zpy, .rel, .izx, .izy] → (encode i).length = 2) ∧
    (i.mode ∈ [.abs, .abx, .aby, .ind] → (encode i).length = 3)

/-- Words written out from the tables of the spec decode to the instructions they stand for. (30_encoding.md R86, R91) -/
def Obligations.SampleWordsDecode : Prop :=
  decode [0xA9, 0x80] = .ok (.lda (.imm 0x80), []) ∧
    decode [0xBD, 0x34, 0x12] = .ok (.lda (.mem (.abx 0x1234)), []) ∧
    decode [0x91, 0x20] = .ok (.sta (.izy 0x20), []) ∧
    decode [0x0A] = .ok (.asl .acc, []) ∧
    decode [0x6E, 0x34, 0x12] = .ok (.ror (.mem (.abs 0x1234)), []) ∧
    decode [0xF0, 0x02] = .ok (.beq 0x02, []) ∧
    decode [0x6C, 0xFF, 0x10] = .ok (.jmp (.ind 0x10FF), []) ∧
    decode [0x20, 0xCD, 0xAB] = .ok (.jsr 0xABCD, []) ∧
    decode [0x00, 0xEA] = .ok (.brk, [0xEA]) ∧
    decode [0x9A] = .ok (.txs, []) ∧
    decode [0x02, 0xA9] = .ok (.undefined 0x02, [0xA9])

/-- A write to RAM is read back and touches no other byte; ROM and an oracle keep all of memory. (20_memory.md R52,
R61, R71) -/
def Obligations.WriteThenRead : Prop :=
  ∀ (s : State) (a : Addr) (v : Byte),
    (s.unitAt a = .ram → (s.write a v).answer a = v) ∧
    StoresOnly s (s.write a v) [(a, v)] ∧
    (s.write a v).accesses = s.accesses ++ [.write a v] ∧
    SameRegisters s (s.write a v) ∧ (s.write a v).pc = s.pc ∧ (s.write a v).flags = s.flags ∧
    (s.write a v).latency = s.latency ∧
    SameSurroundings s (s.write a v)

/-- Two memories in canonical form that hold the same bytes are the same data. (20_memory.md R50) -/
def Obligations.EqualBytesEqualMemory : Prop :=
  ∀ m k : Memory, m.wf = true → k.wf = true →
    (∀ a : Nat, a < 65536 → m.get a = k.get a) → m = k

/-- Zeropage, Zeropage-X, Zeropage-Y: the address is the operand byte plus the index modulo 256, no extra cycle, no
read. (20_memory.md R58, 40_addressing_resolver.md R116, R117, R118) -/
def Obligations.ZeroPageModesStayInPageZero : Prop :=
  ∀ (d : Byte) (s : State),
    (((MemOperand.zp d).resolve s).addr.toNat = d.toNat ∧
      ((MemOperand.zp d).resolve s).extra = false ∧ ((MemOperand.zp d).resolve s).after = s) ∧
    (((MemOperand.zpx d).resolve s).addr.toNat = (d.toNat + s.x.toNat) % 256 ∧
      ((MemOperand.zpx d).resolve s).extra = false ∧ ((MemOperand.zpx d).resolve s).after = s) ∧
    (((MemOperand.zpy d).resolve s).addr.toNat = (d.toNat + s.y.toNat) % 256 ∧
      ((MemOperand.zpy d).resolve s).extra = false ∧ ((MemOperand.zpy d).resolve s).after = s)

/-- Absolute, Absolute-X, Absolute-Y: unsigned index, modulo 65536, extra exactly when low byte plus index reaches
256. (20_memory.md R58, 40_addressing_resolver.md R119, R120, R121) -/
def Obligations.AbsoluteModesWrapAndSignal : Prop :=
  ∀ (base : Addr) (s : State),
    (((MemOperand.abs base).resolve s).addr = base ∧
      ((MemOperand.abs base).resolve s).extra = false ∧ ((MemOperand.abs base).resolve s).after = s) ∧
    (((MemOperand.abx base).resolve s).addr.toNat = (base.toNat + s.x.toNat) % 65536 ∧
      (((MemOperand.abx base).resolve s).extra = true ↔ 256 ≤ base.toNat % 256 + s.x.toNat) ∧
      ((MemOperand.abx base).resolve s).after = s) ∧
    (((MemOperand.aby base).resolve s).addr.toNat = (base.toNat + s.y.toNat) % 65536 ∧
      (((MemOperand.aby base).resolve s).extra = true ↔ 256 ≤ base.toNat % 256 + s.y.toNat) ∧
      ((MemOperand.aby base).resolve s).after = s)

/-- X-Indirect and Indirect-Y: the two pointer bytes are read in page 0, low then high, with wrap. (20_memory.md R58,
R60, 40_addressing_resolver.md R124, R125) -/
def Obligations.PointerModesReadPageZero : Prop :=
  ∀ (d : Byte) (s : State),
    (let p : Addr := BitVec.ofNat 16 ((d.toNat + s.x.toNat) % 256)
      let q : Addr := BitVec.ofNat 16 ((d.toNat + s.x.toNat + 1) % 256)
      let r := (MemOperand.izx d).resolve s
      r.addr.toNat = ((s.afterRead p).answer q).toNat * 256 + (s.answer p).toNat ∧ r.extra = false ∧
      r.after = (s.afterRead p).afterRead q) ∧
    (let p : Addr := BitVec.ofNat 16 d.toNat
      let q : Addr := BitVec.ofNat 16 ((d.toNat + 1) % 256)
      let r := (MemOperand.izy d).resolve s
      r.addr.toNat = (((s.afterRead p).answer q).toNat * 256 + (s.answer p).toNat + s.y.toNat) % 65536 ∧
      (r.extra = true ↔ 256 ≤ (s.answer p).toNat + s.y.toNat) ∧
      r.after = (s.afterRead p).afterRead q)

/-- The resolver writes no register, no flag, not latency, and no memory; it only reads the bus. That PC is as before
rests on log entry 6: the operand bytes have been read, and PC advanced past them, by the fetch.
(40_addressing_resolver.md R110, R111) -/
def Obligations.ResolverTouchesOnlyTheBus : Prop :=
  ∀ (m : MemOperand) (s : State),
    SameRegisters s (m.resolve s).after ∧ (m.resolve s).after.pc = s.pc ∧
    (m.resolve s).after.flags = s.flags ∧ (m.resolve s).after.latency = s.latency ∧
    (m.resolve s).after.result = s.result ∧ (m.resolve s).after.mem = s.mem ∧
    SameSurroundings s (m.resolve s).after ∧
    ∃ reads : List BusAccess, (m.resolve s).after.accesses = s.accesses ++ reads ∧
      ∀ e ∈ reads, ∃ (a : Addr) (v : Byte), e = .read a v

/-- The value of a read operand: the immediate byte without a bus access, or one read at the effective address.
(00_scope.md R10, 20_memory.md R60, 40_addressing_resolver.md R112, R115) -/
def Obligations.OperandValueIsOneReadAtTheEffectiveAddress : Prop :=
  (∀ (v : Byte) (s : State), (Source.imm v).load s = { value := v, extra := false, after := s }) ∧
    (∀ (m : MemOperand) (s : State),
      let r := m.resolve s
      ((Source.mem m).load s).value = r.after.answer r.addr ∧ ((Source.mem m).load s).extra = r.extra ∧
      ((Source.mem m).load s).after = r.after.afterRead r.addr)

/-- LDA, LDX, LDY: the operand to the register, N and Z from it, nothing else; completes for every form. (R141, R142,
R143) -/
def Obligations.LoadsSetRegisterAndNZ : Prop :=
  ∀ (o : Source) (s : State),
    ((Instr.lda o).wf = true → ∃ t, exec (.lda o) s = .next t ∧
      t.a = (o.load s).value ∧ t.x = s.x ∧ t.y = s.y ∧
      t.flags = flagsNZ s.flags (o.load s).value.toNat ∧
      ReadOnlyFrame (o.load s).after s t ∧
      Retired (Instr.lda o).opcode o.mode.length (readCost o.mode + bitValue (o.load s).extra) s t ∧
      (o.mode, (Instr.lda o).opcode) ∈
        ([(.imm, 0xA9), (.zp, 0xA5), (.zpx, 0xB5), (.abs, 0xAD), (.abx, 0xBD), (.aby, 0xB9), (.izx, 0xA1), (.izy, 0xB1)] : List (Mode × Byte))) ∧
    ((Instr.ldx o).wf = true → ∃ t, exec (.ldx o) s = .next t ∧
      t.x = (o.load s).value ∧ t.a = s.a ∧ t.y = s.y ∧
      t.flags = flagsNZ s.flags (o.load s).value.toNat ∧
      ReadOnlyFrame (o.load s).after s t ∧
      Retired (Instr.ldx o).opcode o.mode.length (readCost o.mode + bitValue (o.load s).extra) s t ∧
      (o.mode, (Instr.ldx o).opcode) ∈
        ([(.imm, 0xA2), (.zp, 0xA6), (.zpy, 0xB6), (.abs, 0xAE), (.aby, 0xBE)] : List (Mode × Byte))) ∧
    ((Instr.ldy o).wf = true → ∃ t, exec (.ldy o) s = .next t ∧
      t.y = (o.load s).value ∧ t.a = s.a ∧ t.x = s.x ∧
      t.flags = flagsNZ s.flags (o.load s).value.toNat ∧
      ReadOnlyFrame (o.load s).after s t ∧
      Retired (Instr.ldy o).opcode o.mode.length (readCost o.mode + bitValue (o.load s).extra) s t ∧
      (o.mode, (Instr.ldy o).opcode) ∈
        ([(.imm, 0xA0), (.zp, 0xA4), (.zpx, 0xB4), (.abs, 0xAC), (.abx, 0xBC)] : List (Mode × Byte)))

/-- STA, STX, STY: one write of the register at the effective address, no flag, no read of it; completes for every
form. Where a store lands is the parameter Bus of log entry 3: the byte holds the value where RAM answers, and
where ROM or an oracle answers no byte changes. (41_load_store_transfer.md R144, R145, R146) -/
def Obligations.StoresWriteOneByteAndNoFlag : Prop :=
  ∀ (m : MemOperand) (s : State),
    ((Instr.sta m).wf = true → ∃ t, exec (.sta m) s = .next t ∧
      SameRegisters s t ∧ t.pc = s.pc ∧ t.flags = s.flags ∧ SameSurroundings s t ∧
      StoresOnly s t [((m.resolve s).addr, s.a)] ∧
      t.accesses = (m.resolve s).after.accesses ++ [.write (m.resolve s).addr s.a] ∧
      Retired (Instr.sta m).opcode m.mode.length (storeCost m.mode) s t ∧
      (m.mode, (Instr.sta m).opcode) ∈
        ([(.zp, 0x85), (.zpx, 0x95), (.abs, 0x8D), (.abx, 0x9D), (.aby, 0x99), (.izx, 0x81), (.izy, 0x91)] : List (Mode × Byte))) ∧
    ((Instr.stx m).wf = true → ∃ t, exec (.stx m) s = .next t ∧
      SameRegisters s t ∧ t.pc = s.pc ∧ t.flags = s.flags ∧ SameSurroundings s t ∧
      StoresOnly s t [((m.resolve s).addr, s.x)] ∧
      t.accesses = (m.resolve s).after.accesses ++ [.write (m.resolve s).addr s.x] ∧
      Retired (Instr.stx m).opcode m.mode.length (storeCost m.mode) s t ∧
      (m.mode, (Instr.stx m).opcode) ∈
        ([(.zp, 0x86), (.zpy, 0x96), (.abs, 0x8E)] : List (Mode × Byte))) ∧
    ((Instr.sty m).wf = true → ∃ t, exec (.sty m) s = .next t ∧
      SameRegisters s t ∧ t.pc = s.pc ∧ t.flags = s.flags ∧ SameSurroundings s t ∧
      StoresOnly s t [((m.resolve s).addr, s.y)] ∧
      t.accesses = (m.resolve s).after.accesses ++ [.write (m.resolve s).addr s.y] ∧
      Retired (Instr.sty m).opcode m.mode.length (storeCost m.mode) s t ∧
      (m.mode, (Instr.sty m).opcode) ∈
        ([(.zp, 0x84), (.zpx, 0x94), (.abs, 0x8C)] : List (Mode × Byte)))

/-- TAX, TAY, TXA, TYA, TSX move a register and set N and Z; TXS moves X to SP and sets no flag; 2 cycles each. (R147,
R148, R149, R150, R151, R152) -/
def Obligations.TransfersMoveRegister : Prop :=
  ∀ s : State,
    exec .tax s = .next { s with x := s.a, flags := flagsNZ s.flags s.a.toNat, latency := 1, result := some (.executed 0xAA (s.pc - 1) 2) } ∧
    exec .tay s = .next { s with y := s.a, flags := flagsNZ s.flags s.a.toNat, latency := 1, result := some (.executed 0xA8 (s.pc - 1) 2) } ∧
    exec .txa s = .next { s with a := s.x, flags := flagsNZ s.flags s.x.toNat, latency := 1, result := some (.executed 0x8A (s.pc - 1) 2) } ∧
    exec .tya s = .next { s with a := s.y, flags := flagsNZ s.flags s.y.toNat, latency := 1, result := some (.executed 0x98 (s.pc - 1) 2) } ∧
    exec .tsx s = .next { s with x := s.sp, flags := flagsNZ s.flags s.sp.toNat, latency := 1, result := some (.executed 0xBA (s.pc - 1) 2) } ∧
    exec .txs s = .next { s with sp := s.x, latency := 1, result := some (.executed 0x9A (s.pc - 1) 2) }

/-- ADC: A becomes (A + M + C) mod 256, C the carry, V the signed overflow, N and Z of the result; D is not read.
(R161) -/
def Obligations.AdcIsExactSum : Prop :=
  ∀ (o : Source) (s : State), (Instr.adc o).wf = true →
    let m := (o.load s).value
    let sum := s.a.toNat + m.toNat + bitValue s.flags.c
    let signed := s.a.toInt + m.toInt + (bitValue s.flags.c : Int)
    ∃ t, exec (.adc o) s = .next t ∧
      t.a.toNat = sum % 256 ∧ t.x = s.x ∧ t.y = s.y ∧
      t.flags = { s.flags with
        n := decide (128 ≤ sum % 256), z := decide (sum % 256 = 0), c := decide (256 ≤ sum),
        v := decide (signed < -128 ∨ 127 < signed) } ∧
      ReadOnlyFrame (o.load s).after s t ∧
      Retired (Instr.adc o).opcode o.mode.length (readCost o.mode + bitValue (o.load s).extra) s t ∧
      (o.mode, (Instr.adc o).opcode) ∈
        ([(.imm, 0x69), (.zp, 0x65), (.zpx, 0x75), (.abs, 0x6D), (.abx, 0x7D), (.aby, 0x79), (.izx, 0x61), (.izy, 0x71)] : List (Mode × Byte))

/-- SBC: A becomes (A - M - 1 + C) mod 256, C is no borrow, V the signed overflow, N and Z of the result. (R162) -/
def Obligations.SbcIsExactDifference : Prop :=
  ∀ (o : Source) (s : State), (Instr.sbc o).wf = true →
    let m := (o.load s).value
    let borrow := 1 - bitValue s.flags.c
    let difference := (s.a.toNat + 256 - m.toNat + 256 - borrow) % 256
    let signed := s.a.toInt - m.toInt - (borrow : Int)
    ∃ t, exec (.sbc o) s = .next t ∧
      t.a.toNat = difference ∧ t.x = s.x ∧ t.y = s.y ∧
      t.flags = { s.flags with
        n := decide (128 ≤ difference), z := decide (difference = 0), c := decide (m.toNat + borrow ≤ s.a.toNat),
        v := decide (signed < -128 ∨ 127 < signed) } ∧
      ReadOnlyFrame (o.load s).after s t ∧
      Retired (Instr.sbc o).opcode o.mode.length (readCost o.mode + bitValue (o.load s).extra) s t ∧
      (o.mode, (Instr.sbc o).opcode) ∈
        ([(.imm, 0xE9), (.zp, 0xE5), (.zpx, 0xF5), (.abs, 0xED), (.abx, 0xFD), (.aby, 0xF9), (.izx, 0xE1), (.izy, 0xF1)] : List (Mode × Byte))

/-- AND, ORA, EOR: A becomes the bitwise result, N and Z from it, C and V untouched; completes for every form. (R163,
R164, R165) -/
def Obligations.LogicOnAccumulator : Prop :=
  ∀ (o : Source) (s : State),
    ((Instr.and o).wf = true → ∃ t, exec (.and o) s = .next t ∧
      t.a = s.a &&& (o.load s).value ∧ t.x = s.x ∧ t.y = s.y ∧
      t.flags = flagsNZ s.flags (s.a &&& (o.load s).value).toNat ∧
      ReadOnlyFrame (o.load s).after s t ∧
      Retired (Instr.and o).opcode o.mode.length (readCost o.mode + bitValue (o.load s).extra) s t ∧
      (o.mode, (Instr.and o).opcode) ∈
        ([(.imm, 0x29), (.zp, 0x25), (.zpx, 0x35), (.abs, 0x2D), (.abx, 0x3D), (.aby, 0x39), (.izx, 0x21), (.izy, 0x31)] : List (Mode × Byte))) ∧
    ((Instr.ora o).wf = true → ∃ t, exec (.ora o) s = .next t ∧
      t.a = s.a ||| (o.load s).value ∧ t.x = s.x ∧ t.y = s.y ∧
      t.flags = flagsNZ s.flags (s.a ||| (o.load s).value).toNat ∧
      ReadOnlyFrame (o.load s).after s t ∧
      Retired (Instr.ora o).opcode o.mode.length (readCost o.mode + bitValue (o.load s).extra) s t ∧
      (o.mode, (Instr.ora o).opcode) ∈
        ([(.imm, 0x09), (.zp, 0x05), (.zpx, 0x15), (.abs, 0x0D), (.abx, 0x1D), (.aby, 0x19), (.izx, 0x01), (.izy, 0x11)] : List (Mode × Byte))) ∧
    ((Instr.eor o).wf = true → ∃ t, exec (.eor o) s = .next t ∧
      t.a = s.a ^^^ (o.load s).value ∧ t.x = s.x ∧ t.y = s.y ∧
      t.flags = flagsNZ s.flags (s.a ^^^ (o.load s).value).toNat ∧
      ReadOnlyFrame (o.load s).after s t ∧
      Retired (Instr.eor o).opcode o.mode.length (readCost o.mode + bitValue (o.load s).extra) s t ∧
      (o.mode, (Instr.eor o).opcode) ∈
        ([(.imm, 0x49), (.zp, 0x45), (.zpx, 0x55), (.abs, 0x4D), (.abx, 0x5D), (.aby, 0x59), (.izx, 0x41), (.izy, 0x51)] : List (Mode × Byte)))

/-- BIT: Z from A and M, N and V copied from bits 7 and 6 of M, A unchanged; completes for both forms. (R166) -/
def Obligations.BitCopiesMemoryBits : Prop :=
  ∀ (m : MemOperand) (s : State), (Instr.bit m).wf = true →
    ∃ t, exec (.bit m) s = .next t ∧
      t.a = s.a ∧ t.x = s.x ∧ t.y = s.y ∧
      t.flags = { s.flags with
        z := decide ((s.a &&& (m.load s).value).toNat = 0), n := decide (128 ≤ (m.load s).value.toNat),
        v := decide (64 ≤ (m.load s).value.toNat % 128) } ∧
      ReadOnlyFrame (m.load s).after s t ∧
      Retired (Instr.bit m).opcode m.mode.length (readCost m.mode) s t ∧
      (m.mode, (Instr.bit m).opcode) ∈ ([(.zp, 0x24), (.abs, 0x2C)] : List (Mode × Byte))

/-- CMP, CPX, CPY: C the unsigned order, Z equality, N bit 7 of the difference; register and V unchanged. (R167, R168,
R169) -/
def Obligations.ComparesOrderUnsigned : Prop :=
  ∀ (o : Source) (s : State),
    ((Instr.cmp o).wf = true → ∃ t, exec (.cmp o) s = .next t ∧
      t.a = s.a ∧ t.x = s.x ∧ t.y = s.y ∧
      t.flags = { s.flags with
        c := decide ((o.load s).value.toNat ≤ s.a.toNat), z := decide (s.a.toNat = (o.load s).value.toNat),
        n := decide (128 ≤ (s.a.toNat + 256 - (o.load s).value.toNat) % 256) } ∧
      ReadOnlyFrame (o.load s).after s t ∧
      Retired (Instr.cmp o).opcode o.mode.length (readCost o.mode + bitValue (o.load s).extra) s t ∧
      (o.mode, (Instr.cmp o).opcode) ∈
        ([(.imm, 0xC9), (.zp, 0xC5), (.zpx, 0xD5), (.abs, 0xCD), (.abx, 0xDD), (.aby, 0xD9), (.izx, 0xC1), (.izy, 0xD1)] : List (Mode × Byte))) ∧
    ((Instr.cpx o).wf = true → ∃ t, exec (.cpx o) s = .next t ∧
      t.a = s.a ∧ t.x = s.x ∧ t.y = s.y ∧
      t.flags = { s.flags with
        c := decide ((o.load s).value.toNat ≤ s.x.toNat), z := decide (s.x.toNat = (o.load s).value.toNat),
        n := decide (128 ≤ (s.x.toNat + 256 - (o.load s).value.toNat) % 256) } ∧
      ReadOnlyFrame (o.load s).after s t ∧
      Retired (Instr.cpx o).opcode o.mode.length (readCost o.mode + bitValue (o.load s).extra) s t ∧
      (o.mode, (Instr.cpx o).opcode) ∈
        ([(.imm, 0xE0), (.zp, 0xE4), (.abs, 0xEC)] : List (Mode × Byte))) ∧
    ((Instr.cpy o).wf = true → ∃ t, exec (.cpy o) s = .next t ∧
      t.a = s.a ∧ t.x = s.x ∧ t.y = s.y ∧
      t.flags = { s.flags with
        c := decide ((o.load s).value.toNat ≤ s.y.toNat), z := decide (s.y.toNat = (o.load s).value.toNat),
        n := decide (128 ≤ (s.y.toNat + 256 - (o.load s).value.toNat) % 256) } ∧
      ReadOnlyFrame (o.load s).after s t ∧
      Retired (Instr.cpy o).opcode o.mode.length (readCost o.mode + bitValue (o.load s).extra) s t ∧
      (o.mode, (Instr.cpy o).opcode) ∈
        ([(.imm, 0xC0), (.zp, 0xC4), (.abs, 0xCC)] : List (Mode × Byte)))

/-- INC, DEC: memory plus or minus 1 modulo 256, one read and one write, N and Z only; fixed cost. Where a store lands
is the parameter Bus of log entry 3: the byte holds the value where RAM answers, and where ROM or an oracle
answers no byte changes. (42_arithmetic_logic.md R170, R171) -/
def Obligations.IncDecMemoryWraps : Prop :=
  ∀ (m : MemOperand) (s : State),
    ((Instr.inc m).wf = true → ∃ (t : State) (r : Byte), exec (.inc m) s = .next t ∧
      r.toNat = ((m.load s).value.toNat + 1) % 256 ∧
      SameRegisters s t ∧ t.pc = s.pc ∧ SameSurroundings s t ∧
      t.flags = flagsNZ s.flags r.toNat ∧
      StoresOnly s t [((m.resolve s).addr, r)] ∧
      t.accesses = (m.resolve s).after.accesses ++
        [.read (m.resolve s).addr (m.load s).value, .write (m.resolve s).addr r] ∧
      Retired (Instr.inc m).opcode m.mode.length (modifyCost m.mode) s t ∧
      (m.mode, (Instr.inc m).opcode) ∈ ([(.zp, 0xE6), (.zpx, 0xF6), (.abs, 0xEE), (.abx, 0xFE)] : List (Mode × Byte))) ∧
    ((Instr.dec m).wf = true → ∃ (t : State) (r : Byte), exec (.dec m) s = .next t ∧
      r.toNat = ((m.load s).value.toNat + 255) % 256 ∧
      SameRegisters s t ∧ t.pc = s.pc ∧ SameSurroundings s t ∧
      t.flags = flagsNZ s.flags r.toNat ∧
      StoresOnly s t [((m.resolve s).addr, r)] ∧
      t.accesses = (m.resolve s).after.accesses ++
        [.read (m.resolve s).addr (m.load s).value, .write (m.resolve s).addr r] ∧
      Retired (Instr.dec m).opcode m.mode.length (modifyCost m.mode) s t ∧
      (m.mode, (Instr.dec m).opcode) ∈ ([(.zp, 0xC6), (.zpx, 0xD6), (.abs, 0xCE), (.abx, 0xDE)] : List (Mode × Byte)))

/-- INX, INY, DEX, DEY: the index register plus or minus 1 modulo 256, N and Z, nothing else; 2 cycles. (R172, R173,
R174, R175) -/
def Obligations.IndexStepsWrap : Prop :=
  ∀ s : State,
    (∃ r : Byte, r.toNat = (s.x.toNat + 1) % 256 ∧
      exec .inx s = .next { s with x := r, flags := flagsNZ s.flags r.toNat, latency := 1, result := some (.executed 0xE8 (s.pc - 1) 2) }) ∧
    (∃ r : Byte, r.toNat = (s.y.toNat + 1) % 256 ∧
      exec .iny s = .next { s with y := r, flags := flagsNZ s.flags r.toNat, latency := 1, result := some (.executed 0xC8 (s.pc - 1) 2) }) ∧
    (∃ r : Byte, r.toNat = (s.x.toNat + 255) % 256 ∧
      exec .dex s = .next { s with x := r, flags := flagsNZ s.flags r.toNat, latency := 1, result := some (.executed 0xCA (s.pc - 1) 2) }) ∧
    (∃ r : Byte, r.toNat = (s.y.toNat + 255) % 256 ∧
      exec .dey s = .next { s with y := r, flags := flagsNZ s.flags r.toNat, latency := 1, result := some (.executed 0x88 (s.pc - 1) 2) })

/-- ASL A, LSR A, ROL A, ROR A: the shifted accumulator as a number, C the bit shifted out, N and Z; no bus access.
(43_shift_rotate.md R190, R191, R192, R193, R194) -/
def Obligations.ShiftsOnAccumulator : Prop :=
  ∀ s : State,
    (∃ r : Byte, r.toNat = 2 * s.a.toNat % 256 ∧
      exec (.asl .acc) s = .next { s with
        a := r, flags := { flagsNZ s.flags r.toNat with c := decide (128 ≤ s.a.toNat) },
        latency := 1, result := some (.executed 0x0A (s.pc - 1) 2) }) ∧
    (∃ r : Byte, r.toNat = s.a.toNat / 2 ∧
      exec (.lsr .acc) s = .next { s with
        a := r, flags := { flagsNZ s.flags r.toNat with c := decide (s.a.toNat % 2 = 1) },
        latency := 1, result := some (.executed 0x4A (s.pc - 1) 2) }) ∧
    (∃ r : Byte, r.toNat = (2 * s.a.toNat + bitValue s.flags.c) % 256 ∧
      exec (.rol .acc) s = .next { s with
        a := r, flags := { flagsNZ s.flags r.toNat with c := decide (128 ≤ s.a.toNat) },
        latency := 1, result := some (.executed 0x2A (s.pc - 1) 2) }) ∧
    (∃ r : Byte, r.toNat = s.a.toNat / 2 + 128 * bitValue s.flags.c ∧
      exec (.ror .acc) s = .next { s with
        a := r, flags := { flagsNZ s.flags r.toNat with c := decide (s.a.toNat % 2 = 1) },
        latency := 1, result := some (.executed 0x6A (s.pc - 1) 2) })

/-- ASL, LSR, ROL, ROR on memory: one read, one write of the shifted byte, C the bit shifted out, N and Z; fixed cost.
Where a store lands is the parameter Bus of log entry 3: the byte holds the value where RAM answers, and where ROM
or an oracle answers no byte changes. (43_shift_rotate.md R190, R191, R192, R193, R194, 20_memory.md R59) -/
def Obligations.ShiftsOnMemory : Prop :=
  ∀ (m : MemOperand) (s : State),
    ((Instr.asl (.mem m)).wf = true → ∃ (t : State) (r : Byte), exec (.asl (.mem m)) s = .next t ∧
      r.toNat = 2 * (m.load s).value.toNat % 256 ∧
      SameRegisters s t ∧ t.pc = s.pc ∧ SameSurroundings s t ∧
      t.flags = { flagsNZ s.flags r.toNat with c := decide (128 ≤ (m.load s).value.toNat) } ∧
      StoresOnly s t [((m.resolve s).addr, r)] ∧
      t.accesses = (m.resolve s).after.accesses ++
        [.read (m.resolve s).addr (m.load s).value, .write (m.resolve s).addr r] ∧
      Retired (Instr.asl (.mem m)).opcode m.mode.length (modifyCost m.mode) s t ∧
      (m.mode, (Instr.asl (.mem m)).opcode) ∈ ([(.acc, 0x0A), (.zp, 0x06), (.zpx, 0x16), (.abs, 0x0E), (.abx, 0x1E)] : List (Mode × Byte))) ∧
    ((Instr.lsr (.mem m)).wf = true → ∃ (t : State) (r : Byte), exec (.lsr (.mem m)) s = .next t ∧
      r.toNat = (m.load s).value.toNat / 2 ∧
      SameRegisters s t ∧ t.pc = s.pc ∧ SameSurroundings s t ∧
      t.flags = { flagsNZ s.flags r.toNat with c := decide ((m.load s).value.toNat % 2 = 1) } ∧
      StoresOnly s t [((m.resolve s).addr, r)] ∧
      t.accesses = (m.resolve s).after.accesses ++
        [.read (m.resolve s).addr (m.load s).value, .write (m.resolve s).addr r] ∧
      Retired (Instr.lsr (.mem m)).opcode m.mode.length (modifyCost m.mode) s t ∧
      (m.mode, (Instr.lsr (.mem m)).opcode) ∈ ([(.acc, 0x4A), (.zp, 0x46), (.zpx, 0x56), (.abs, 0x4E), (.abx, 0x5E)] : List (Mode × Byte))) ∧
    ((Instr.rol (.mem m)).wf = true → ∃ (t : State) (r : Byte), exec (.rol (.mem m)) s = .next t ∧
      r.toNat = (2 * (m.load s).value.toNat + bitValue s.flags.c) % 256 ∧
      SameRegisters s t ∧ t.pc = s.pc ∧ SameSurroundings s t ∧
      t.flags = { flagsNZ s.flags r.toNat with c := decide (128 ≤ (m.load s).value.toNat) } ∧
      StoresOnly s t [((m.resolve s).addr, r)] ∧
      t.accesses = (m.resolve s).after.accesses ++
        [.read (m.resolve s).addr (m.load s).value, .write (m.resolve s).addr r] ∧
      Retired (Instr.rol (.mem m)).opcode m.mode.length (modifyCost m.mode) s t ∧
      (m.mode, (Instr.rol (.mem m)).opcode) ∈ ([(.acc, 0x2A), (.zp, 0x26), (.zpx, 0x36), (.abs, 0x2E), (.abx, 0x3E)] : List (Mode × Byte))) ∧
    ((Instr.ror (.mem m)).wf = true → ∃ (t : State) (r : Byte), exec (.ror (.mem m)) s = .next t ∧
      r.toNat = (m.load s).value.toNat / 2 + 128 * bitValue s.flags.c ∧
      SameRegisters s t ∧ t.pc = s.pc ∧ SameSurroundings s t ∧
      t.flags = { flagsNZ s.flags r.toNat with c := decide ((m.load s).value.toNat % 2 = 1) } ∧
      StoresOnly s t [((m.resolve s).addr, r)] ∧
      t.accesses = (m.resolve s).after.accesses ++
        [.read (m.resolve s).addr (m.load s).value, .write (m.resolve s).addr r] ∧
      Retired (Instr.ror (.mem m)).opcode m.mode.length (modifyCost m.mode) s t ∧
      (m.mode, (Instr.ror (.mem m)).opcode) ∈ ([(.acc, 0x6A), (.zp, 0x66), (.zpx, 0x76), (.abs, 0x6E), (.abx, 0x7E)] : List (Mode × Byte)))

/-- CLC, SEC, SEI, CLD, SED, CLV write their named flag and nothing else; NOP writes nothing; 2 cycles each.
(44_flags_nop.md R201, R202, R204, R205, R206, R207, R208) -/
def Obligations.FlagInstructionsTouchOneFlag : Prop :=
  ∀ s : State,
    exec .clc s = .next { s with flags := { s.flags with c := false }, latency := 1, result := some (.executed 0x18 (s.pc - 1) 2) } ∧
    exec .sec s = .next { s with flags := { s.flags with c := true }, latency := 1, result := some (.executed 0x38 (s.pc - 1) 2) } ∧
    exec .sei s = .next { s with flags := { s.flags with i := true }, latency := 1, result := some (.executed 0x78 (s.pc - 1) 2) } ∧
    exec .cld s = .next { s with flags := { s.flags with d := false }, latency := 1, result := some (.executed 0xD8 (s.pc - 1) 2) } ∧
    exec .sed s = .next { s with flags := { s.flags with d := true }, latency := 1, result := some (.executed 0xF8 (s.pc - 1) 2) } ∧
    exec .clv s = .next { s with flags := { s.flags with v := false }, latency := 1, result := some (.executed 0xB8 (s.pc - 1) 2) } ∧
    exec .nop s = .next { s with latency := 1, result := some (.executed 0xEA (s.pc - 1) 2) }

/-- CLI clears I and nothing else, and a held IRQ is taken at the very next Idle tick (the spec's decision D26).
(44_flags_nop.md R203, 60_exceptions.md R276) -/
def Obligations.CliLetsIrqInAtNextIdleTick : Prop :=
  (∀ s : State, exec .cli s = .next { s with
      flags := { s.flags with i := false }, latency := 1, result := some (.executed 0x58 (s.pc - 1) 2) }) ∧
    (∀ s t : State, s.nmi = s.nmiPrev → s.irq = true → exec .cli s = .next t →
      ∃ u, tick { t with latency := 0 } = .next u ∧ u.result = some (.interrupt .irq 7))

/-- The eight branches: PC + signed offset modulo 65536 if the flag holds, else PC; 2, 3 or 4 cycles; nothing else.
(R210, R211, R212, R213, R214, R215, R216, R217, R218) -/
def Obligations.BranchesTakenAndNotTaken : Prop :=
  ∀ (d : Byte) (s : State),
    ∀ q ∈ ([(.bcc d, !s.flags.c, 0x90), (.bcs d, s.flags.c, 0xB0), (.beq d, s.flags.z, 0xF0),
        (.bne d, !s.flags.z, 0xD0), (.bmi d, s.flags.n, 0x30), (.bpl d, !s.flags.n, 0x10),
        (.bvc d, !s.flags.v, 0x50), (.bvs d, s.flags.v, 0x70)] :
        List (Instr × Bool × Byte)),
      (q.2.1 = false →
        exec q.1 s = .next { s with latency := 1, result := some (.executed q.2.2 (s.pc - 2) 2) }) ∧
      (q.2.1 = true → ∃ target : Addr,
        (target.toNat : Int) = ((s.pc.toNat : Int) + d.toInt) % 65536 ∧
        (target.toNat / 256 = s.pc.toNat / 256 →
          exec q.1 s = .next { s with pc := target, latency := 2,
                                      result := some (.executed q.2.2 (s.pc - 2) 3) }) ∧
        (target.toNat / 256 ≠ s.pc.toNat / 256 →
          exec q.1 s = .next { s with pc := target, latency := 3,
                                      result := some (.executed q.2.2 (s.pc - 2) 4) }))

/-- JMP: PC becomes the operand, or the word read through the pointer without leaving the pointer's page. (R219) -/
def Obligations.JmpSetsPcWithPageWrap : Prop :=
  ∀ (a : Addr) (s : State),
    exec (.jmp (.abs a)) s = .next { s with
      pc := a, latency := 2, result := some (.executed 0x4C (s.pc - 3) 3) } ∧
    (let second : Addr := BitVec.ofNat 16 (a.toNat / 256 * 256 + (a.toNat + 1) % 256)
      ∃ target : Addr, target.toNat = ((s.afterRead a).answer second).toNat * 256 + (s.answer a).toNat ∧
        exec (.jmp (.ind a)) s = .next { (s.afterRead a).afterRead second with
          pc := target, latency := 4, result := some (.executed 0x6C (s.pc - 3) 5) })

/-- JSR: pushes the address of its own last byte, high byte first, SP - 2 modulo 256, PC becomes the target; 6 cycles.
Where a store lands is the parameter Bus of log entry 3: the byte holds the value where RAM answers, and where ROM
or an oracle answers no byte changes. (45_branch_jump.md R220) -/
def Obligations.JsrPushesLastByteAddress : Prop :=
  ∀ (a : Addr) (s : State), ∃ (t : State) (hi lo : Byte), exec (.jsr a) s = .next t ∧
    hi.toNat * 256 + lo.toNat = (s.pc.toNat + 65535) % 65536 ∧
    t.pc = a ∧ t.sp.toNat = (s.sp.toNat + 254) % 256 ∧ t.a = s.a ∧ t.x = s.x ∧ t.y = s.y ∧ t.flags = s.flags ∧
    SameSurroundings s t ∧ StoresOnly s t [(slotBelow s 0, hi), (slotBelow s 1, lo)] ∧
    t.accesses = s.accesses ++ [.write (slotBelow s 0) hi, .write (slotBelow s 1) lo] ∧
    Retired 0x20 3 6 s t

/-- RTS: pops low then high, PC is that word plus 1 modulo 65536, SP + 2 modulo 256; 6 cycles. (R221) -/
def Obligations.RtsPopsAndAddsOne : Prop :=
  ∀ s : State,
    let u := (s.afterRead (slotAbove s 1)).afterRead (slotAbove s 2)
    ∃ t, exec .rts s = .next t ∧
      t.pc.toNat = (((s.afterRead (slotAbove s 1)).answer (slotAbove s 2)).toNat * 256 +
        (s.answer (slotAbove s 1)).toNat + 1) % 65536 ∧
      t.sp.toNat = (s.sp.toNat + 2) % 256 ∧ t.a = s.a ∧ t.x = s.x ∧ t.y = s.y ∧ t.flags = s.flags ∧
      SameMemory s t ∧ SameSurroundings s t ∧ SameBus u t ∧ Retired 0x60 1 6 s t

/-- PHA: A to the stack slot at 0x0100 + SP, SP - 1 modulo 256, no flag; 3 cycles. Where a store lands is the
parameter Bus of log entry 3: the byte holds the value where RAM answers, and where ROM or an oracle answers no
byte changes. (46_stack_system.md R231) -/
def Obligations.PhaPushesAccumulator : Prop :=
  ∀ s : State, ∃ t, exec .pha s = .next t ∧
    t.sp.toNat = (s.sp.toNat + 255) % 256 ∧ t.a = s.a ∧ t.x = s.x ∧ t.y = s.y ∧ t.pc = s.pc ∧ t.flags = s.flags ∧
    SameSurroundings s t ∧ StoresOnly s t [(slotBelow s 0, s.a)] ∧
    t.accesses = s.accesses ++ [.write (slotBelow s 0) s.a] ∧
    Retired 0x48 1 3 s t

/-- PHP: the status byte with bits 5 and 4 set to the stack, SP - 1, the stored B neither read nor changed; 3 cycles.
Where a store lands is the parameter Bus of log entry 3: the byte holds the value where RAM answers, and where ROM
or an oracle answers no byte changes. (46_stack_system.md R232, 10_state.md R27, R29, 92_eei_decisions.md D13) -/
def Obligations.PhpPushesStatusWithBit4 : Prop :=
  ∀ s : State, ∃ (t : State) (p : Byte), exec .php s = .next t ∧
    p.toNat = 128 * bitValue s.flags.n + 64 * bitValue s.flags.v + 48 + 8 * bitValue s.flags.d +
      4 * bitValue s.flags.i + 2 * bitValue s.flags.z + bitValue s.flags.c ∧
    t.sp.toNat = (s.sp.toNat + 255) % 256 ∧ t.a = s.a ∧ t.x = s.x ∧ t.y = s.y ∧ t.pc = s.pc ∧ t.flags = s.flags ∧
    SameSurroundings s t ∧ StoresOnly s t [(slotBelow s 0, p)] ∧
    t.accesses = s.accesses ++ [.write (slotBelow s 0) p] ∧
    Retired 0x08 1 3 s t

/-- PLA: SP + 1 modulo 256, A the byte read there, N and Z; 4 cycles. (R233) -/
def Obligations.PlaPullsAccumulator : Prop :=
  ∀ s : State, ∃ t, exec .pla s = .next t ∧
    t.a = s.answer (slotAbove s 1) ∧ t.sp.toNat = (s.sp.toNat + 1) % 256 ∧ t.x = s.x ∧ t.y = s.y ∧ t.pc = s.pc ∧
    t.flags = flagsNZ s.flags (s.answer (slotAbove s 1)).toNat ∧
    SameMemory s t ∧ SameSurroundings s t ∧ SameBus (s.afterRead (slotAbove s 1)) t ∧ Retired 0x68 1 4 s t

/-- PLP: all seven flags from the popped byte, B included, bit 5 ignored; 4 cycles. (46_stack_system.md R234,
10_state.md R27, 92_eei_decisions.md D15) -/
def Obligations.PlpRestoresAllFlags : Prop :=
  ∀ s : State,
    let p := (s.answer (slotAbove s 1)).toNat
    ∃ t, exec .plp s = .next t ∧
      t.flags.n = decide (p / 128 % 2 = 1) ∧ t.flags.v = decide (p / 64 % 2 = 1) ∧
      t.flags.b = decide (p / 16 % 2 = 1) ∧ t.flags.d = decide (p / 8 % 2 = 1) ∧
      t.flags.i = decide (p / 4 % 2 = 1) ∧ t.flags.z = decide (p / 2 % 2 = 1) ∧ t.flags.c = decide (p % 2 = 1) ∧
      t.sp.toNat = (s.sp.toNat + 1) % 256 ∧ t.a = s.a ∧ t.x = s.x ∧ t.y = s.y ∧ t.pc = s.pc ∧
      SameMemory s t ∧ SameSurroundings s t ∧ SameBus (s.afterRead (slotAbove s 1)) t ∧ Retired 0x28 1 4 s t

/-- BRK: pushes PC + 1 high, low and the status with bit 4 = 1, sets I, PC from 0xFFFE/0xFFFF; 7 cycles. Where a store
lands is the parameter Bus of log entry 3: the byte holds the value where RAM answers, and where ROM or an oracle
answers no byte changes. (46_stack_system.md R235, 60_exceptions.md R272, R279, 20_memory.md R60,
92_eei_decisions.md D25) -/
def Obligations.BrkTakesTheException : Prop :=
  ∀ s : State,
    ∃ (t : State) (hi lo p low high : Byte), exec .brk s = .next t ∧
      hi.toNat * 256 + lo.toNat = (s.pc.toNat + 1) % 65536 ∧
      p.toNat = 128 * bitValue s.flags.n + 64 * bitValue s.flags.v + 48 + 8 * bitValue s.flags.d +
      4 * bitValue s.flags.i + 2 * bitValue s.flags.z + bitValue s.flags.c ∧
      (let u := ((s.write (slotBelow s 0) hi).write (slotBelow s 1) lo).write (slotBelow s 2) p;
        low = u.answer 0xFFFE ∧ high = (u.afterRead 0xFFFE).answer 0xFFFF) ∧
      t.pc.toNat = high.toNat * 256 + low.toNat ∧
      t.sp.toNat = (s.sp.toNat + 253) % 256 ∧ t.a = s.a ∧ t.x = s.x ∧ t.y = s.y ∧
      t.flags = { s.flags with i := true } ∧ SameSurroundings s t ∧
      StoresOnly s t [(slotBelow s 0, hi), (slotBelow s 1, lo), (slotBelow s 2, p)] ∧
      t.accesses = s.accesses ++ [.write (slotBelow s 0) hi, .write (slotBelow s 1) lo, .write (slotBelow s 2) p,
        .read 0xFFFE low, .read 0xFFFF high] ∧
      Retired 0x00 1 7 s t

/-- RTI: status then PC low then PC high popped, no + 1, all seven flags restored, SP + 3; 6 cycles.
(46_stack_system.md R236, 60_exceptions.md R281, 92_eei_decisions.md D15) -/
def Obligations.RtiReturnsFromException : Prop :=
  ∀ s : State,
    let s1 := s.afterRead (slotAbove s 1)
    let s2 := s1.afterRead (slotAbove s 2)
    let p := (s.answer (slotAbove s 1)).toNat
    ∃ t, exec .rti s = .next t ∧
      t.flags.n = decide (p / 128 % 2 = 1) ∧ t.flags.v = decide (p / 64 % 2 = 1) ∧
      t.flags.b = decide (p / 16 % 2 = 1) ∧ t.flags.d = decide (p / 8 % 2 = 1) ∧
      t.flags.i = decide (p / 4 % 2 = 1) ∧ t.flags.z = decide (p / 2 % 2 = 1) ∧ t.flags.c = decide (p % 2 = 1) ∧
      t.pc.toNat = (s2.answer (slotAbove s 3)).toNat * 256 + (s1.answer (slotAbove s 2)).toNat ∧
      t.sp.toNat = (s.sp.toNat + 3) % 256 ∧ t.a = s.a ∧ t.x = s.x ∧ t.y = s.y ∧
      SameMemory s t ∧ SameSurroundings s t ∧ SameBus (s2.afterRead (slotAbove s 3)) t ∧ Retired 0x40 1 6 s t

/-- An UNDEFINED byte reports IllegalOpcode(opcode, pc0) and changes nothing but PC; the policy halt stops there.
(49_execution_engine.md R251, 60_exceptions.md R270, 00_scope.md R7, 92_eei_decisions.md D20) -/
def Obligations.UndefinedByteReportsIllegalOpcode : Prop :=
  ∀ (opcode : Byte) (s : State),
    (s.policy = .report →
      exec (.undefined opcode) s = .next { s with result := some (.illegalOpcode opcode (s.pc - 1)) }) ∧
    (s.policy = .halt → exec (.undefined opcode) s = .fault (.illegalOpcode opcode (s.pc - 1)))

/-- JSR then RTS over RAM returns to the instruction after the JSR with SP as before. (45_branch_jump.md R220, R221,
R222, 95_test_vectors.md S7) -/
def Obligations.RtsUndoesJsr : Prop :=
  ∀ (a : Addr) (s : State), s.unitAt (slotBelow s 0) = .ram → s.unitAt (slotBelow s 1) = .ram →
    ∃ t, exec (.jsr a) s = .next t ∧
      ∀ r : State, r.sp = t.sp → r.mem = t.mem → r.bus = t.bus →
        ∃ u, exec .rts r = .next u ∧ u.pc = s.pc ∧ u.sp = s.sp

/-- BRK then RTI over RAM resumes after the padding byte with SP and the flags as before, the stored B being 1.
(46_stack_system.md R235, R236, 10_state.md R29) -/
def Obligations.RtiUndoesBrk : Prop :=
  ∀ s : State, s.unitAt (slotBelow s 0) = .ram → s.unitAt (slotBelow s 1) = .ram →
    s.unitAt (slotBelow s 2) = .ram →
    ∃ t, exec .brk s = .next t ∧
      ∀ r : State, r.sp = t.sp → r.mem = t.mem → r.bus = t.bus →
        ∃ u, exec .rti r = .next u ∧ u.pc = s.pc + 1 ∧ u.sp = s.sp ∧ u.flags = { s.flags with b := true }

/-- An interrupt entry then RTI over RAM resumes the displaced instruction with SP and flags as before, stored B 0.
(60_exceptions.md R278, R281, 46_stack_system.md R236, 10_state.md R29) -/
def Obligations.RtiUndoesInterruptEntry : Prop :=
  ∀ (kind : InterruptKind) (s : State), s.unitAt (slotBelow s 0) = .ram → s.unitAt (slotBelow s 1) = .ram →
    s.unitAt (slotBelow s 2) = .ram →
    ∀ r : State, r.sp = (s.takeInterrupt kind).sp → r.mem = (s.takeInterrupt kind).mem →
      r.bus = (s.takeInterrupt kind).bus →
      ∃ u, exec .rti r = .next u ∧ u.pc = s.pc ∧ u.sp = s.sp ∧ u.flags = { s.flags with b := false }

/-- At an Idle tick without interrupt, step is exec of the instruction that the bytes at PC decode to.
(49_execution_engine.md R242, R256, 40_addressing_resolver.md R111, 20_memory.md R60) -/
def Obligations.StepRunsDecodedInstruction : Prop :=
  (∀ (s : State) (i : Instr) (rest : List Byte),
      let h := s.hostTurn
      let g := { h with nmiPrev := h.nmi }
      h.latency = 0 → (h.nmi && !h.nmiPrev) = false → (h.irq && !h.flags.i) = false →
      decode g.nextBytes = .ok (i, rest) → step s = exec i (g.afterFetch i.length)) ∧
    (∀ s : State, s.schedule = [] →
      s.hostTurn = { s with accesses := [], busPast := s.busSeen ++ [.turn []] })

/-- A Running tick decrements latency, reports Counted, and does nothing else. (R241) -/
def Obligations.RunningTickOnlyCounts : Prop :=
  ∀ s : State, s.latency ≠ 0 →
    ∃ left : BitVec 3, left.toNat + 1 = s.latency.toNat ∧
      tick s = .next { s with latency := left, result := some (.counted left) }

/-- From latency k with no host move, exactly k Running ticks follow, each silent, and the next tick is Idle.
(49_execution_engine.md R241, R243, R244, R255) -/
def Obligations.InstructionOccupiesItsCycles : Prop :=
  ∀ (s : State) (j : Nat), s.schedule = [] → 1 ≤ j → j ≤ s.latency.toNat →
    steps j s = .next { s with
      latency := BitVec.ofNat 3 (s.latency.toNat - j), accesses := [],
      busPast := s.busSeen ++ List.replicate j (.turn []),
      result := some (.counted (BitVec.ofNat 3 (s.latency.toNat - j))) }

/-- An Idle tick takes the NMI on an edge, else the IRQ if I = 0, else fetches: exactly one of the three.
(60_exceptions.md R275, R276, R277, 49_execution_engine.md R242, 92_eei_decisions.md D16, D17, D18) -/
def Obligations.IdleTickChoosesOne : Prop :=
  ∀ s : State, s.latency = 0 →
    (s.nmi = true → s.nmiPrev = false →
      tick s = .next ({ s with nmiPrev := true }.takeInterrupt .nmi)) ∧
    (¬ (s.nmi = true ∧ s.nmiPrev = false) → s.irq = true → s.flags.i = false →
      tick s = .next ({ s with nmiPrev := s.nmi }.takeInterrupt .irq)) ∧
    (¬ (s.nmi = true ∧ s.nmiPrev = false) → ¬ (s.irq = true ∧ s.flags.i = false) →
      tick s = exec { s with nmiPrev := s.nmi }.fetch.1 { s with nmiPrev := s.nmi }.fetch.2)

/-- nmi_prev takes the level of nmi at every Idle tick, whatever the tick performs, and keeps its value in Running
ticks. (60_exceptions.md R274, R275, 10_state.md R33) -/
def Obligations.NmiSampledOnlyWhenIdle : Prop :=
  ∀ s t : State, tick s = .next t →
    (s.latency = 0 → t.nmiPrev = s.nmi) ∧ (s.latency ≠ 0 → t.nmiPrev = s.nmiPrev)

/-- NMI and IRQ entry: PC and the status with bit 4 = 0 pushed, I set, PC from the vector, 7 cycles. Where a store
lands is the parameter Bus of log entry 3: the byte holds the value where RAM answers, and where ROM or an oracle
answers no byte changes. (60_exceptions.md R278, R279, 10_state.md R29, 49_execution_engine.md R249,
92_eei_decisions.md D14, D19) -/
def Obligations.InterruptEntrySavesPcAndStatus : Prop :=
  ∀ (kind : InterruptKind) (s : State),
    let vector : Addr := if kind = .nmi then 0xFFFA else 0xFFFE
    let hi : Byte := BitVec.ofNat 8 (s.pc.toNat / 256)
    let lo : Byte := BitVec.ofNat 8 (s.pc.toNat % 256)
    let t := s.takeInterrupt kind
    ∃ p low high : Byte,
      p.toNat = 128 * bitValue s.flags.n + 64 * bitValue s.flags.v + 32 + 8 * bitValue s.flags.d +
      4 * bitValue s.flags.i + 2 * bitValue s.flags.z + bitValue s.flags.c ∧
      (let u := ((s.write (slotBelow s 0) hi).write (slotBelow s 1) lo).write (slotBelow s 2) p;
        low = u.answer vector ∧ high = (u.afterRead vector).answer (vector + 1)) ∧
      t.pc.toNat = high.toNat * 256 + low.toNat ∧
      t.sp.toNat = (s.sp.toNat + 253) % 256 ∧ t.a = s.a ∧ t.x = s.x ∧ t.y = s.y ∧
      t.flags = { s.flags with i := true } ∧ SameSurroundings s t ∧
      StoresOnly s t [(slotBelow s 0, hi), (slotBelow s 1, lo), (slotBelow s 2, p)] ∧
      t.accesses = s.accesses ++ [.write (slotBelow s 0) hi, .write (slotBelow s 1) lo, .write (slotBelow s 2) p,
        .read vector low, .read (vector + 1) high] ∧
      t.latency = 6 ∧ t.result = some (.interrupt kind 7)

/-- Reset, from any state and for any reset parameters: the registers take them, PC the reset vector, two reads only.
(70_reset_and_hazards.md R300, R301, R302, 10_state.md R35, R37, 92_eei_decisions.md D4 to D7, D37) -/
def Obligations.ResetLoadsVectorAndDefaults : Prop :=
  (∀ (s : State) (r : ResetValues),
      let low := s.answer 0xFFFC
      let high := (s.afterRead 0xFFFC).answer 0xFFFD
      let t := s.resetWith r
      t.a = r.a ∧ t.x = r.x ∧ t.y = r.y ∧ t.sp = r.sp ∧
      t.flags = { n := r.n, v := r.v, b := r.b, d := r.d, i := r.i, z := r.z, c := r.c } ∧
      t.latency = 0 ∧ t.nmiPrev = false ∧ t.pc.toNat = high.toNat * 256 + low.toNat ∧
      t.accesses = s.accesses ++ [.read 0xFFFC low, .read 0xFFFD high] ∧ t.mem = s.mem ∧ t.bus = s.bus ∧ t.busPast = s.busPast ∧
      t.nmi = s.nmi ∧ t.irq = s.irq ∧ t.schedule = s.schedule ∧ t.policy = s.policy) ∧
    (∀ s : State, s.hostMove .reset = s.resetWith
      { a := 0x00, x := 0x00, y := 0x00, sp := 0xFD, n := false, v := false, b := false, d := false, i := true,
        z := false, c := false })

/-- State.reset is what the reset operation leaves over a memory that lists nothing. (10_state.md R35 to R39,
70_reset_and_hazards.md R300, R301) -/
def Obligations.ResetStateIsResetOverEmptyMemory : Prop :=
  ∀ s : State, s.mem = [] → s.bus = Bus.flatRam → s.busPast = [] → s.nmi = false → s.irq = false →
    s.schedule = [] → s.policy = .report → s.accesses = [] →
    s.hostMove .reset = State.reset

/-- Every step keeps the invariant: canonical memory, latency 0..6, and the tick result in agreement with latency.
(10_state.md R33, R41, 49_execution_engine.md R241, R242, R243, R251, R252) -/
def Obligations.StepKeepsTheMachineWellFormed : Prop :=
  ∀ s t : State, s.Inv → step s = .next t → t.Inv

/-- The state after reset meets the invariant. (10_state.md R39, R41) -/
def Obligations.ResetStateMeetsTheInvariant : Prop :=
  State.reset.Inv

/-- The stored B never influences execution: two states that differ in B only step to states that differ in B only.
(10_state.md R29, R28, 92_eei_decisions.md D14, D35) -/
def Obligations.StoredBreakFlagIsUnobservable : Prop :=
  ∀ (s : State) (b : Bool), AgreeUpTo (fun t => t.withB false) (step s) (step (s.withB b))

/-- No instruction but the two that push the status byte reads D. (42_arithmetic_logic.md R177, 10_state.md R28, R31) -/
def Obligations.DecimalFlagIsReadOnlyByPushes : Prop :=
  ∀ (i : Instr) (s : State) (d : Bool), i.kind ≠ .php → i.kind ≠ .brk →
    AgreeUpTo (fun t => t.withD false) (exec i s) (exec i (s.withD d))

/-- Which instructions may change which flag: exactly the writers of the table of R28. (10_state.md R26, R28, R29,
R30) -/
def Obligations.FlagWritersAreTheListedOnes : Prop :=
  ∀ (i : Instr) (s t : State), exec i s = .next t →
    (t.flags.n ≠ s.flags.n → i.kind ∈ ([.lda, .ldx, .ldy, .tax, .tay, .txa, .tya, .tsx, .pla, .and, .ora, .eor, .adc, .sbc, .inc, .dec, .inx, .iny,
        .dex, .dey, .asl, .lsr, .rol, .ror, .cmp, .cpx, .cpy, .bit, .plp, .rti] : List Kind)) ∧
    (t.flags.z ≠ s.flags.z → i.kind ∈ ([.lda, .ldx, .ldy, .tax, .tay, .txa, .tya, .tsx, .pla, .and, .ora, .eor, .adc, .sbc, .inc, .dec, .inx, .iny,
        .dex, .dey, .asl, .lsr, .rol, .ror, .cmp, .cpx, .cpy, .bit, .plp, .rti] : List Kind)) ∧
    (t.flags.v ≠ s.flags.v → i.kind ∈ ([.adc, .sbc, .bit, .clv, .plp, .rti] : List Kind)) ∧
    (t.flags.b ≠ s.flags.b → i.kind ∈ ([.plp, .rti] : List Kind)) ∧
    (t.flags.d ≠ s.flags.d → i.kind ∈ ([.sed, .cld, .plp, .rti] : List Kind)) ∧
    (t.flags.i ≠ s.flags.i → i.kind ∈ ([.sei, .cli, .brk, .plp, .rti] : List Kind)) ∧
    (t.flags.c ≠ s.flags.c → i.kind ∈ ([.adc, .sbc, .cmp, .cpx, .cpy, .asl, .lsr, .rol, .ror, .sec, .clc, .plp,
        .rti] : List Kind))

/-- Which instructions may change A, X, Y, SP and PC: exactly the ones the state rules list. (10_state.md R21, R22,
R24) -/
def Obligations.RegisterWritersAreTheListedOnes : Prop :=
  ∀ (i : Instr) (s t : State), exec i s = .next t →
    (t.a ≠ s.a → i.kind ∈ ([.adc, .sbc, .and, .ora, .eor, .lda, .pla, .txa, .tya, .asl, .lsr, .rol, .ror] :
      List Kind)) ∧
    (t.x ≠ s.x → i.kind ∈ ([.ldx, .inx, .dex, .tax, .tsx] : List Kind)) ∧
    (t.y ≠ s.y → i.kind ∈ ([.ldy, .iny, .dey, .tay] : List Kind)) ∧
    (t.sp ≠ s.sp → i.kind ∈ ([.pha, .php, .pla, .plp, .jsr, .rts, .brk, .rti, .txs] : List Kind)) ∧
    (t.pc ≠ s.pc → i.kind ∈ ([.bcc, .bcs, .beq, .bne, .bmi, .bpl, .bvc, .bvs, .jmp, .jsr, .rts, .brk, .rti] :
      List Kind))

/-- A byte of memory changes only where RAM answers and the instruction issued a write to it; transactions only
append. That memory changes only where RAM answers is the parameter Bus of log entry 3. (20_memory.md R52, R59,
R60, R62) -/
def Obligations.MemoryChangesOnlyByBusWrites : Prop :=
  ∀ (i : Instr) (s t : State), exec i s = .next t →
    t.accesses = s.accesses ++ newAccesses s t ∧
    ∀ b : Addr, t.peek b ≠ s.peek b →
      s.unitAt b = .ram ∧ ∃ v : Byte, BusAccess.write b v ∈ newAccesses s t

/-- A tick makes at most six bus accesses. (20_memory.md R60, 49_execution_engine.md R254) -/
def Obligations.AtMostSixAccessesPerTick : Prop :=
  ∀ s t : State, s.accesses = [] → tick s = .next t → t.accesses.length ≤ 6

/-- PHA, PHP, JSR, BRK and the interrupt entry write in page 0x01 only, whatever SP is. (10_state.md R22, 20_memory.md
R53, R57) -/
def Obligations.StackInstructionsWriteOnlyTheStackPage : Prop :=
  (∀ (i : Instr) (s t : State), i.kind ∈ ([.pha, .php, .jsr, .brk] : List Kind) → exec i s = .next t →
      ∀ (a : Addr) (v : Byte), BusAccess.write a v ∈ newAccesses s t → a.toNat / 256 = 1) ∧
    (∀ (kind : InterruptKind) (s : State) (a : Addr) (v : Byte),
      BusAccess.write a v ∈ newAccesses s (s.takeInterrupt kind) → a.toNat / 256 = 1)

/-- All but branches cost the base count; the nine read kinds in ABX, ABY, IZY one more exactly when the resolver
signals a page cross. (49_execution_engine.md R245, R246, R247, 90_conflicts.md C5) -/
def Obligations.PageCrossCostsOnlyReadInstructions : Prop :=
  (∀ (i : Instr) (s t : State), exec i s = .next t → i.kind ≠ .undefined → i.mode ≠ .rel →
    Retired i.opcode i.length (baseCycles i.opcode) s t ∨
    (i.kind ∈ ([.adc, .and, .cmp, .eor, .lda, .ldx, .ldy, .ora, .sbc] : List Kind) ∧
      i.mode ∈ ([.abx, .aby, .izy] : List Mode) ∧
      Retired i.opcode i.length (baseCycles i.opcode + 1) s t)) ∧
    (∀ (o : Source) (s : State), ∀ i ∈ ([.adc o, .and o, .cmp o, .eor o, .lda o, .ldx o, .ldy o, .ora o, .sbc o] :
      List Instr), i.wf = true → ∃ t, exec i s = .next t ∧
        Retired i.opcode i.length (baseCycles i.opcode + bitValue (o.load s).extra) s t)

/-- Every instruction that completes reports a total of 2 to 7 cycles and leaves latency one less.
(49_execution_engine.md R243, R248, R252, 70_reset_and_hazards.md R311) -/
def Obligations.EveryInstructionCostsTwoToSeven : Prop :=
  ∀ (i : Instr) (s t : State), exec i s = .next t → i.kind ≠ .undefined →
    ∃ total : Nat, 2 ≤ total ∧ total ≤ 7 ∧ Retired i.opcode i.length total s t

/-- Every step answers a next state, from every state whose owning system goes on after IllegalOpcode.
(60_exceptions.md R271, 49_execution_engine.md R253, R240) -/
def Obligations.NoInstructionStopsTheMachine : Prop :=
  ∀ s : State, s.policy = .report → ∃ t, step s = .next t ∧ t.policy = .report
end

