-- ==== Sys2Proof/Laws/Bits.lean ====
section
/-! SUPPORT. The helpers of Machine/Bits.lean as numbers, and the parts of a joined word. -/

namespace Sys2Proof.Machine.Laws

theorem join_toNat (h l : Byte) : (join h l).toNat = h.toNat * 256 + l.toNat := by
  rw [join, BitVec.toNat_append, ← Nat.shiftLeft_add_eq_or_of_lt l.isLt, Nat.shiftLeft_eq]

theorem hiByte_toNat (v : Addr) : (hiByte v).toNat = v.toNat / 256 := by
  rw [hiByte, BitVec.extractLsb'_toNat, Nat.shiftRight_eq_div_pow]
  exact Nat.mod_eq_of_lt (Nat.div_lt_of_lt_mul v.isLt)

theorem loByte_toNat (v : Addr) : (loByte v).toNat = v.toNat % 256 := by
  rw [loByte, BitVec.extractLsb'_toNat, Nat.shiftRight_zero]

theorem zext16_toNat (v : Byte) : (zext16 v).toNat = v.toNat := by
  rw [zext16, BitVec.toNat_setWidth]
  exact Nat.mod_eq_of_lt (by have := v.isLt; omega)

theorem stackAddr_toNat (v : Byte) : (stackAddr v).toNat = 256 + v.toNat := by
  rw [stackAddr, join_toNat]
  rfl

@[simp] theorem join_hiByte_loByte (v : Addr) : join (hiByte v) (loByte v) = v := by
  apply BitVec.eq_of_toNat_eq
  rw [join_toNat, hiByte_toNat, loByte_toNat]
  omega

@[simp] theorem hiByte_join (h l : Byte) : hiByte (join h l) = h := by
  apply BitVec.eq_of_toNat_eq
  rw [hiByte_toNat, join_toNat]
  have := l.isLt
  omega

@[simp] theorem loByte_join (h l : Byte) : loByte (join h l) = l := by
  apply BitVec.eq_of_toNat_eq
  rw [loByte_toNat, join_toNat]
  have := l.isLt
  omega

@[simp] theorem stackAddr_inj (v w : Byte) : stackAddr v = stackAddr w ↔ v = w := by
  refine ⟨fun h => ?_, fun h => h ▸ rfl⟩
  have := congrArg BitVec.toNat h
  rw [stackAddr_toNat, stackAddr_toNat] at this
  exact BitVec.eq_of_toNat_eq (by omega)

/-- Two addresses are on different pages exactly when their page numbers differ. -/
theorem pageCross_iff (a b : Addr) : pageCross a b = true ↔ a.toNat / 256 ≠ b.toNat / 256 := by
  rw [pageCross, bne_iff_ne, ne_eq, ← BitVec.toNat_inj, hiByte_toNat, hiByte_toNat]

end Sys2Proof.Machine.Laws
end

