-- ==== Sys2Proof/Laws/State.lean ====
section
/-! SUPPORT. One lemma for each field that a named operation leaves alone, and the value of each field it writes, so
that no proof unfolds a record update. True by rfl. -/

namespace Sys2Proof.Machine.Laws

/-! ## A read -/

@[simp] theorem read_fst (s : State) (a : Addr) : (s.read a).1 = s.answer a := rfl
@[simp] theorem read_snd (s : State) (a : Addr) : (s.read a).2 = s.afterRead a := rfl
@[simp] theorem afterRead_a (s : State) (a : Addr) : (s.afterRead a).a = s.a := rfl
@[simp] theorem afterRead_x (s : State) (a : Addr) : (s.afterRead a).x = s.x := rfl
@[simp] theorem afterRead_y (s : State) (a : Addr) : (s.afterRead a).y = s.y := rfl
@[simp] theorem afterRead_sp (s : State) (a : Addr) : (s.afterRead a).sp = s.sp := rfl
@[simp] theorem afterRead_pc (s : State) (a : Addr) : (s.afterRead a).pc = s.pc := rfl
@[simp] theorem afterRead_flags (s : State) (a : Addr) : (s.afterRead a).flags = s.flags := rfl
@[simp] theorem afterRead_latency (s : State) (a : Addr) : (s.afterRead a).latency = s.latency := rfl
@[simp] theorem afterRead_nmiPrev (s : State) (a : Addr) : (s.afterRead a).nmiPrev = s.nmiPrev := rfl
@[simp] theorem afterRead_nmi (s : State) (a : Addr) : (s.afterRead a).nmi = s.nmi := rfl
@[simp] theorem afterRead_irq (s : State) (a : Addr) : (s.afterRead a).irq = s.irq := rfl
@[simp] theorem afterRead_schedule (s : State) (a : Addr) : (s.afterRead a).schedule = s.schedule := rfl
@[simp] theorem afterRead_policy (s : State) (a : Addr) : (s.afterRead a).policy = s.policy := rfl
@[simp] theorem afterRead_mem (s : State) (a : Addr) : (s.afterRead a).mem = s.mem := rfl
@[simp] theorem afterRead_bus (s : State) (a : Addr) : (s.afterRead a).bus = s.bus := rfl
@[simp] theorem afterRead_busPast (s : State) (a : Addr) : (s.afterRead a).busPast = s.busPast := rfl
@[simp] theorem afterRead_result (s : State) (a : Addr) : (s.afterRead a).result = s.result := rfl
@[simp] theorem afterRead_accesses (s : State) (a : Addr) :
    (s.afterRead a).accesses = s.accesses ++ [.read a (s.answer a)] := rfl
@[simp] theorem afterRead_peek (s : State) (a b : Addr) : (s.afterRead a).peek b = s.peek b := rfl
@[simp] theorem afterRead_unitAt (s : State) (a b : Addr) : (s.afterRead a).unitAt b = s.unitAt b := rfl

/-! ## A write -/

@[simp] theorem write_a (s : State) (a : Addr) (v : Byte) : (s.write a v).a = s.a := rfl
@[simp] theorem write_x (s : State) (a : Addr) (v : Byte) : (s.write a v).x = s.x := rfl
@[simp] theorem write_y (s : State) (a : Addr) (v : Byte) : (s.write a v).y = s.y := rfl
@[simp] theorem write_sp (s : State) (a : Addr) (v : Byte) : (s.write a v).sp = s.sp := rfl
@[simp] theorem write_pc (s : State) (a : Addr) (v : Byte) : (s.write a v).pc = s.pc := rfl
@[simp] theorem write_flags (s : State) (a : Addr) (v : Byte) : (s.write a v).flags = s.flags := rfl
@[simp] theorem write_latency (s : State) (a : Addr) (v : Byte) : (s.write a v).latency = s.latency := rfl
@[simp] theorem write_nmiPrev (s : State) (a : Addr) (v : Byte) : (s.write a v).nmiPrev = s.nmiPrev := rfl
@[simp] theorem write_nmi (s : State) (a : Addr) (v : Byte) : (s.write a v).nmi = s.nmi := rfl
@[simp] theorem write_irq (s : State) (a : Addr) (v : Byte) : (s.write a v).irq = s.irq := rfl
@[simp] theorem write_schedule (s : State) (a : Addr) (v : Byte) : (s.write a v).schedule = s.schedule := rfl
@[simp] theorem write_policy (s : State) (a : Addr) (v : Byte) : (s.write a v).policy = s.policy := rfl
@[simp] theorem write_bus (s : State) (a : Addr) (v : Byte) : (s.write a v).bus = s.bus := rfl
@[simp] theorem write_busPast (s : State) (a : Addr) (v : Byte) : (s.write a v).busPast = s.busPast := rfl
@[simp] theorem write_result (s : State) (a : Addr) (v : Byte) : (s.write a v).result = s.result := rfl
@[simp] theorem write_accesses (s : State) (a : Addr) (v : Byte) :
    (s.write a v).accesses = s.accesses ++ [.write a v] := rfl
@[simp] theorem write_mem (s : State) (a : Addr) (v : Byte) : (s.write a v).mem = s.bus.writeByte s.mem a v := rfl
@[simp] theorem write_unitAt (s : State) (a b : Addr) (v : Byte) : (s.write a v).unitAt b = s.unitAt b := rfl

/-! ## Push and pop -/

@[simp] theorem push_a (s : State) (v : Byte) : (s.push v).a = s.a := rfl
@[simp] theorem push_x (s : State) (v : Byte) : (s.push v).x = s.x := rfl
@[simp] theorem push_y (s : State) (v : Byte) : (s.push v).y = s.y := rfl
@[simp] theorem push_pc (s : State) (v : Byte) : (s.push v).pc = s.pc := rfl
@[simp] theorem push_flags (s : State) (v : Byte) : (s.push v).flags = s.flags := rfl
@[simp] theorem push_latency (s : State) (v : Byte) : (s.push v).latency = s.latency := rfl
@[simp] theorem push_nmiPrev (s : State) (v : Byte) : (s.push v).nmiPrev = s.nmiPrev := rfl
@[simp] theorem push_nmi (s : State) (v : Byte) : (s.push v).nmi = s.nmi := rfl
@[simp] theorem push_irq (s : State) (v : Byte) : (s.push v).irq = s.irq := rfl
@[simp] theorem push_schedule (s : State) (v : Byte) : (s.push v).schedule = s.schedule := rfl
@[simp] theorem push_policy (s : State) (v : Byte) : (s.push v).policy = s.policy := rfl
@[simp] theorem push_bus (s : State) (v : Byte) : (s.push v).bus = s.bus := rfl
@[simp] theorem push_busPast (s : State) (v : Byte) : (s.push v).busPast = s.busPast := rfl
@[simp] theorem push_result (s : State) (v : Byte) : (s.push v).result = s.result := rfl
@[simp] theorem push_sp (s : State) (v : Byte) : (s.push v).sp = s.sp - 1 := rfl
@[simp] theorem push_mem (s : State) (v : Byte) : (s.push v).mem = s.bus.writeByte s.mem (stackAddr s.sp) v := rfl
@[simp] theorem push_accesses (s : State) (v : Byte) :
    (s.push v).accesses = s.accesses ++ [.write (stackAddr s.sp) v] := rfl
@[simp] theorem push_unitAt (s : State) (v : Byte) (b : Addr) : (s.push v).unitAt b = s.unitAt b := rfl
@[simp] theorem pushWord_a (s : State) (w : Addr) : (s.pushWord w).a = s.a := rfl
@[simp] theorem pushWord_x (s : State) (w : Addr) : (s.pushWord w).x = s.x := rfl
@[simp] theorem pushWord_y (s : State) (w : Addr) : (s.pushWord w).y = s.y := rfl
@[simp] theorem pushWord_pc (s : State) (w : Addr) : (s.pushWord w).pc = s.pc := rfl
@[simp] theorem pushWord_flags (s : State) (w : Addr) : (s.pushWord w).flags = s.flags := rfl
@[simp] theorem pushWord_latency (s : State) (w : Addr) : (s.pushWord w).latency = s.latency := rfl
@[simp] theorem pushWord_nmiPrev (s : State) (w : Addr) : (s.pushWord w).nmiPrev = s.nmiPrev := rfl
@[simp] theorem pushWord_nmi (s : State) (w : Addr) : (s.pushWord w).nmi = s.nmi := rfl
@[simp] theorem pushWord_irq (s : State) (w : Addr) : (s.pushWord w).irq = s.irq := rfl
@[simp] theorem pushWord_schedule (s : State) (w : Addr) : (s.pushWord w).schedule = s.schedule := rfl
@[simp] theorem pushWord_policy (s : State) (w : Addr) : (s.pushWord w).policy = s.policy := rfl
@[simp] theorem pushWord_bus (s : State) (w : Addr) : (s.pushWord w).bus = s.bus := rfl
@[simp] theorem pushWord_busPast (s : State) (w : Addr) : (s.pushWord w).busPast = s.busPast := rfl
@[simp] theorem pushWord_result (s : State) (w : Addr) : (s.pushWord w).result = s.result := rfl
@[simp] theorem pushWord_accesses (s : State) (w : Addr) : (s.pushWord w).accesses =
    s.accesses ++ [.write (stackAddr s.sp) (hiByte w)] ++ [.write (stackAddr (s.sp - 1)) (loByte w)] := rfl
@[simp] theorem pushWord_sp (s : State) (w : Addr) : (s.pushWord w).sp = s.sp - 1 - 1 := rfl
@[simp] theorem pushWord_unitAt (s : State) (w b : Addr) : (s.pushWord w).unitAt b = s.unitAt b := rfl
@[simp] theorem pop_fst (s : State) : s.pop.1 = s.answer (stackAddr (s.sp + 1)) := rfl
@[simp] theorem pop_a (s : State) : (s.pop.2).a = s.a := rfl
@[simp] theorem pop_x (s : State) : (s.pop.2).x = s.x := rfl
@[simp] theorem pop_y (s : State) : (s.pop.2).y = s.y := rfl
@[simp] theorem pop_pc (s : State) : (s.pop.2).pc = s.pc := rfl
@[simp] theorem pop_flags (s : State) : (s.pop.2).flags = s.flags := rfl
@[simp] theorem pop_latency (s : State) : (s.pop.2).latency = s.latency := rfl
@[simp] theorem pop_nmiPrev (s : State) : (s.pop.2).nmiPrev = s.nmiPrev := rfl
@[simp] theorem pop_nmi (s : State) : (s.pop.2).nmi = s.nmi := rfl
@[simp] theorem pop_irq (s : State) : (s.pop.2).irq = s.irq := rfl
@[simp] theorem pop_schedule (s : State) : (s.pop.2).schedule = s.schedule := rfl
@[simp] theorem pop_policy (s : State) : (s.pop.2).policy = s.policy := rfl
@[simp] theorem pop_mem (s : State) : (s.pop.2).mem = s.mem := rfl
@[simp] theorem pop_bus (s : State) : (s.pop.2).bus = s.bus := rfl
@[simp] theorem pop_busPast (s : State) : (s.pop.2).busPast = s.busPast := rfl
@[simp] theorem pop_result (s : State) : (s.pop.2).result = s.result := rfl
@[simp] theorem pop_sp (s : State) : s.pop.2.sp = s.sp + 1 := rfl
@[simp] theorem pop_accesses (s : State) :
    s.pop.2.accesses = s.accesses ++ [.read (stackAddr (s.sp + 1)) (s.answer (stackAddr (s.sp + 1)))] := rfl
@[simp] theorem pop_unitAt (s : State) (b : Addr) : s.pop.2.unitAt b = s.unitAt b := rfl
@[simp] theorem pop_peek (s : State) (b : Addr) : s.pop.2.peek b = s.peek b := rfl
@[simp] theorem popWord_fst (s : State) : s.popWord.1 = join s.pop.2.pop.1 s.pop.1 := rfl
@[simp] theorem popWord_snd (s : State) : s.popWord.2 = s.pop.2.pop.2 := rfl
@[simp] theorem readVector_fst (s : State) (a : Addr) :
    (s.readVector a).1 = join ((s.afterRead a).answer (a + 1)) (s.answer a) := rfl
@[simp] theorem readVector_snd (s : State) (a : Addr) :
    (s.readVector a).2 = (s.afterRead a).afterRead (a + 1) := rfl

/-! ## Flags -/

@[simp] theorem setNZ_a (s : State) (v : Byte) : (s.setNZ v).a = s.a := rfl
@[simp] theorem setNZ_x (s : State) (v : Byte) : (s.setNZ v).x = s.x := rfl
@[simp] theorem setNZ_y (s : State) (v : Byte) : (s.setNZ v).y = s.y := rfl
@[simp] theorem setNZ_sp (s : State) (v : Byte) : (s.setNZ v).sp = s.sp := rfl
@[simp] theorem setNZ_pc (s : State) (v : Byte) : (s.setNZ v).pc = s.pc := rfl
@[simp] theorem setNZ_latency (s : State) (v : Byte) : (s.setNZ v).latency = s.latency := rfl
@[simp] theorem setNZ_nmiPrev (s : State) (v : Byte) : (s.setNZ v).nmiPrev = s.nmiPrev := rfl
@[simp] theorem setNZ_nmi (s : State) (v : Byte) : (s.setNZ v).nmi = s.nmi := rfl
@[simp] theorem setNZ_irq (s : State) (v : Byte) : (s.setNZ v).irq = s.irq := rfl
@[simp] theorem setNZ_schedule (s : State) (v : Byte) : (s.setNZ v).schedule = s.schedule := rfl
@[simp] theorem setNZ_policy (s : State) (v : Byte) : (s.setNZ v).policy = s.policy := rfl
@[simp] theorem setNZ_mem (s : State) (v : Byte) : (s.setNZ v).mem = s.mem := rfl
@[simp] theorem setNZ_bus (s : State) (v : Byte) : (s.setNZ v).bus = s.bus := rfl
@[simp] theorem setNZ_busPast (s : State) (v : Byte) : (s.setNZ v).busPast = s.busPast := rfl
@[simp] theorem setNZ_result (s : State) (v : Byte) : (s.setNZ v).result = s.result := rfl
@[simp] theorem setNZ_accesses (s : State) (v : Byte) : (s.setNZ v).accesses = s.accesses := rfl
@[simp] theorem setNZ_flags (s : State) (v : Byte) : (s.setNZ v).flags = s.flags.setNZ v := rfl
@[simp] theorem setNZ_unitAt (s : State) (v : Byte) (b : Addr) : (s.setNZ v).unitAt b = s.unitAt b := rfl
@[simp] theorem setNZ_peek (s : State) (v : Byte) (b : Addr) : (s.setNZ v).peek b = s.peek b := rfl

/-! ## Taking an exception and returning from one -/

/-- What an entry pushes, before the vector is read: PC, then the status byte; I is set. -/
theorem enterException_eq (s : State) (w : Addr) (b : Bool) : s.enterException w b =
    let u := { (s.pushWord s.pc).push (s.flags.statusByte b) with flags := { s.flags with i := true } }
    { (u.afterRead w).afterRead (w + 1) with pc := join ((u.afterRead w).answer (w + 1)) (u.answer w) } := by
  rfl

@[simp] theorem enterException_a (s : State) (w : Addr) (b : Bool) : (s.enterException w b).a = s.a := by
  simp [enterException_eq]
@[simp] theorem enterException_x (s : State) (w : Addr) (b : Bool) : (s.enterException w b).x = s.x := by
  simp [enterException_eq]
@[simp] theorem enterException_y (s : State) (w : Addr) (b : Bool) : (s.enterException w b).y = s.y := by
  simp [enterException_eq]
@[simp] theorem enterException_latency (s : State) (w : Addr) (b : Bool) : (s.enterException w b).latency = s.latency := by
  simp [enterException_eq]
@[simp] theorem enterException_nmiPrev (s : State) (w : Addr) (b : Bool) : (s.enterException w b).nmiPrev = s.nmiPrev := by
  simp [enterException_eq]
@[simp] theorem enterException_nmi (s : State) (w : Addr) (b : Bool) : (s.enterException w b).nmi = s.nmi := by
  simp [enterException_eq]
@[simp] theorem enterException_irq (s : State) (w : Addr) (b : Bool) : (s.enterException w b).irq = s.irq := by
  simp [enterException_eq]
@[simp] theorem enterException_schedule (s : State) (w : Addr) (b : Bool) : (s.enterException w b).schedule = s.schedule := by
  simp [enterException_eq]
@[simp] theorem enterException_policy (s : State) (w : Addr) (b : Bool) : (s.enterException w b).policy = s.policy := by
  simp [enterException_eq]
@[simp] theorem enterException_bus (s : State) (w : Addr) (b : Bool) : (s.enterException w b).bus = s.bus := by
  simp [enterException_eq]
@[simp] theorem enterException_busPast (s : State) (w : Addr) (b : Bool) : (s.enterException w b).busPast = s.busPast := by
  simp [enterException_eq]
@[simp] theorem enterException_result (s : State) (w : Addr) (b : Bool) : (s.enterException w b).result = s.result := by
  simp [enterException_eq]
@[simp] theorem enterException_flags (s : State) (w : Addr) (b : Bool) :
    (s.enterException w b).flags = { s.flags with i := true } := by
  simp [enterException_eq]
@[simp] theorem enterException_sp (s : State) (w : Addr) (b : Bool) :
    (s.enterException w b).sp = s.sp - 1 - 1 - 1 := by
  simp [enterException_eq]
@[simp] theorem enterException_mem (s : State) (w : Addr) (b : Bool) :
    (s.enterException w b).mem = ((s.pushWord s.pc).push (s.flags.statusByte b)).mem := by
  simp [enterException_eq]
@[simp] theorem enterException_unitAt (s : State) (w : Addr) (c : Bool) (b : Addr) :
    (s.enterException w c).unitAt b = s.unitAt b := by
  simp [State.unitAt]
/-- The return pops three bytes: the status byte, PC low, PC high. -/
theorem returnFromException_eq (s : State) : s.returnFromException =
    { s.pop.2.pop.2.pop.2 with
      flags := Flags.ofStatus s.pop.1
      pc := join s.pop.2.pop.2.pop.1 s.pop.2.pop.1 } := by
  rfl

@[simp] theorem returnFromException_a (s : State) : (s.returnFromException).a = s.a := rfl
@[simp] theorem returnFromException_x (s : State) : (s.returnFromException).x = s.x := rfl
@[simp] theorem returnFromException_y (s : State) : (s.returnFromException).y = s.y := rfl
@[simp] theorem returnFromException_latency (s : State) : (s.returnFromException).latency = s.latency := rfl
@[simp] theorem returnFromException_nmiPrev (s : State) : (s.returnFromException).nmiPrev = s.nmiPrev := rfl
@[simp] theorem returnFromException_nmi (s : State) : (s.returnFromException).nmi = s.nmi := rfl
@[simp] theorem returnFromException_irq (s : State) : (s.returnFromException).irq = s.irq := rfl
@[simp] theorem returnFromException_schedule (s : State) : (s.returnFromException).schedule = s.schedule := rfl
@[simp] theorem returnFromException_policy (s : State) : (s.returnFromException).policy = s.policy := rfl
@[simp] theorem returnFromException_mem (s : State) : (s.returnFromException).mem = s.mem := rfl
@[simp] theorem returnFromException_bus (s : State) : (s.returnFromException).bus = s.bus := rfl
@[simp] theorem returnFromException_busPast (s : State) : (s.returnFromException).busPast = s.busPast := rfl
@[simp] theorem returnFromException_result (s : State) : (s.returnFromException).result = s.result := rfl
@[simp] theorem returnFromException_flags (s : State) :
    s.returnFromException.flags = Flags.ofStatus (s.answer (stackAddr (s.sp + 1))) := rfl
@[simp] theorem returnFromException_sp (s : State) : s.returnFromException.sp = s.sp + 1 + 1 + 1 := rfl
/-- An interrupt entry is an exception entry with bit 4 = 0, and its retirement. -/
theorem takeInterrupt_eq (s : State) (k : InterruptKind) : s.takeInterrupt k =
    { s.enterException k.vector false with latency := 6, result := some (.interrupt k 7) } := by
  rfl

@[simp] theorem takeInterrupt_a (s : State) (k : InterruptKind) : (s.takeInterrupt k).a = s.a := by
  simp [takeInterrupt_eq]
@[simp] theorem takeInterrupt_x (s : State) (k : InterruptKind) : (s.takeInterrupt k).x = s.x := by
  simp [takeInterrupt_eq]
@[simp] theorem takeInterrupt_y (s : State) (k : InterruptKind) : (s.takeInterrupt k).y = s.y := by
  simp [takeInterrupt_eq]
@[simp] theorem takeInterrupt_sp (s : State) (k : InterruptKind) :
    (s.takeInterrupt k).sp = (s.enterException k.vector false).sp := by
  rw [takeInterrupt_eq]
@[simp] theorem takeInterrupt_pc (s : State) (k : InterruptKind) :
    (s.takeInterrupt k).pc = (s.enterException k.vector false).pc := by
  rw [takeInterrupt_eq]
@[simp] theorem takeInterrupt_flags (s : State) (k : InterruptKind) :
    (s.takeInterrupt k).flags = (s.enterException k.vector false).flags := by
  rw [takeInterrupt_eq]
@[simp] theorem takeInterrupt_latency (s : State) (k : InterruptKind) : (s.takeInterrupt k).latency = 6 := by
  rw [takeInterrupt_eq]
@[simp] theorem takeInterrupt_nmiPrev (s : State) (k : InterruptKind) : (s.takeInterrupt k).nmiPrev = s.nmiPrev := by
  simp [takeInterrupt_eq]
@[simp] theorem takeInterrupt_nmi (s : State) (k : InterruptKind) : (s.takeInterrupt k).nmi = s.nmi := by
  simp [takeInterrupt_eq]
@[simp] theorem takeInterrupt_irq (s : State) (k : InterruptKind) : (s.takeInterrupt k).irq = s.irq := by
  simp [takeInterrupt_eq]
@[simp] theorem takeInterrupt_schedule (s : State) (k : InterruptKind) : (s.takeInterrupt k).schedule = s.schedule := by
  simp [takeInterrupt_eq]
@[simp] theorem takeInterrupt_policy (s : State) (k : InterruptKind) : (s.takeInterrupt k).policy = s.policy := by
  simp [takeInterrupt_eq]
@[simp] theorem takeInterrupt_mem (s : State) (k : InterruptKind) :
    (s.takeInterrupt k).mem = (s.enterException k.vector false).mem := by
  rw [takeInterrupt_eq]
@[simp] theorem takeInterrupt_bus (s : State) (k : InterruptKind) : (s.takeInterrupt k).bus = s.bus := by
  simp [takeInterrupt_eq]
@[simp] theorem takeInterrupt_busPast (s : State) (k : InterruptKind) : (s.takeInterrupt k).busPast = s.busPast := by
  simp [takeInterrupt_eq]
@[simp] theorem takeInterrupt_result (s : State) (k : InterruptKind) :
    (s.takeInterrupt k).result = some (.interrupt k 7) := by
  rw [takeInterrupt_eq]
@[simp] theorem takeInterrupt_accesses (s : State) (k : InterruptKind) :
    (s.takeInterrupt k).accesses = (s.enterException k.vector false).accesses := by
  rw [takeInterrupt_eq]

/-! ## The engine -/

@[simp] theorem countDown_a (s : State) : (s.countDown).a = s.a := rfl
@[simp] theorem countDown_x (s : State) : (s.countDown).x = s.x := rfl
@[simp] theorem countDown_y (s : State) : (s.countDown).y = s.y := rfl
@[simp] theorem countDown_sp (s : State) : (s.countDown).sp = s.sp := rfl
@[simp] theorem countDown_pc (s : State) : (s.countDown).pc = s.pc := rfl
@[simp] theorem countDown_flags (s : State) : (s.countDown).flags = s.flags := rfl
@[simp] theorem countDown_nmiPrev (s : State) : (s.countDown).nmiPrev = s.nmiPrev := rfl
@[simp] theorem countDown_nmi (s : State) : (s.countDown).nmi = s.nmi := rfl
@[simp] theorem countDown_irq (s : State) : (s.countDown).irq = s.irq := rfl
@[simp] theorem countDown_schedule (s : State) : (s.countDown).schedule = s.schedule := rfl
@[simp] theorem countDown_policy (s : State) : (s.countDown).policy = s.policy := rfl
@[simp] theorem countDown_mem (s : State) : (s.countDown).mem = s.mem := rfl
@[simp] theorem countDown_bus (s : State) : (s.countDown).bus = s.bus := rfl
@[simp] theorem countDown_busPast (s : State) : (s.countDown).busPast = s.busPast := rfl
@[simp] theorem countDown_accesses (s : State) : (s.countDown).accesses = s.accesses := rfl
@[simp] theorem sampleLines_a (s : State) : (s.sampleLines).a = s.a := rfl
@[simp] theorem sampleLines_x (s : State) : (s.sampleLines).x = s.x := rfl
@[simp] theorem sampleLines_y (s : State) : (s.sampleLines).y = s.y := rfl
@[simp] theorem sampleLines_sp (s : State) : (s.sampleLines).sp = s.sp := rfl
@[simp] theorem sampleLines_pc (s : State) : (s.sampleLines).pc = s.pc := rfl
@[simp] theorem sampleLines_flags (s : State) : (s.sampleLines).flags = s.flags := rfl
@[simp] theorem sampleLines_latency (s : State) : (s.sampleLines).latency = s.latency := rfl
@[simp] theorem sampleLines_nmi (s : State) : (s.sampleLines).nmi = s.nmi := rfl
@[simp] theorem sampleLines_irq (s : State) : (s.sampleLines).irq = s.irq := rfl
@[simp] theorem sampleLines_schedule (s : State) : (s.sampleLines).schedule = s.schedule := rfl
@[simp] theorem sampleLines_policy (s : State) : (s.sampleLines).policy = s.policy := rfl
@[simp] theorem sampleLines_mem (s : State) : (s.sampleLines).mem = s.mem := rfl
@[simp] theorem sampleLines_bus (s : State) : (s.sampleLines).bus = s.bus := rfl
@[simp] theorem sampleLines_busPast (s : State) : (s.sampleLines).busPast = s.busPast := rfl
@[simp] theorem sampleLines_result (s : State) : (s.sampleLines).result = s.result := rfl
@[simp] theorem sampleLines_accesses (s : State) : (s.sampleLines).accesses = s.accesses := rfl
@[simp] theorem sampleLines_nmiPrev (s : State) : s.sampleLines.nmiPrev = s.nmi := rfl
@[simp] theorem fetchByte_fst (s : State) : s.fetchByte.1 = s.answer s.pc := rfl
@[simp] theorem fetchByte_a (s : State) : (s.fetchByte.2).a = s.a := rfl
@[simp] theorem fetchByte_x (s : State) : (s.fetchByte.2).x = s.x := rfl
@[simp] theorem fetchByte_y (s : State) : (s.fetchByte.2).y = s.y := rfl
@[simp] theorem fetchByte_sp (s : State) : (s.fetchByte.2).sp = s.sp := rfl
@[simp] theorem fetchByte_flags (s : State) : (s.fetchByte.2).flags = s.flags := rfl
@[simp] theorem fetchByte_latency (s : State) : (s.fetchByte.2).latency = s.latency := rfl
@[simp] theorem fetchByte_nmiPrev (s : State) : (s.fetchByte.2).nmiPrev = s.nmiPrev := rfl
@[simp] theorem fetchByte_nmi (s : State) : (s.fetchByte.2).nmi = s.nmi := rfl
@[simp] theorem fetchByte_irq (s : State) : (s.fetchByte.2).irq = s.irq := rfl
@[simp] theorem fetchByte_schedule (s : State) : (s.fetchByte.2).schedule = s.schedule := rfl
@[simp] theorem fetchByte_policy (s : State) : (s.fetchByte.2).policy = s.policy := rfl
@[simp] theorem fetchByte_mem (s : State) : (s.fetchByte.2).mem = s.mem := rfl
@[simp] theorem fetchByte_bus (s : State) : (s.fetchByte.2).bus = s.bus := rfl
@[simp] theorem fetchByte_busPast (s : State) : (s.fetchByte.2).busPast = s.busPast := rfl
@[simp] theorem fetchByte_result (s : State) : (s.fetchByte.2).result = s.result := rfl
@[simp] theorem fetchByte_pc (s : State) : s.fetchByte.2.pc = s.pc + 1 := rfl
@[simp] theorem fetchByte_accesses (s : State) :
    s.fetchByte.2.accesses = s.accesses ++ [.read s.pc (s.answer s.pc)] := rfl

/-- Retirement is a next state: it sets `latency` and `result` and nothing else. -/
theorem retire_eq (i : Instr) (next : Addr) (extra : Bool) (branch : Nat) (s : State) :
    retire i next extra branch s = .next { s with
      latency := BitVec.ofNat 3 (totalCycles i.opcode extra branch - 1)
      result := some (.executed i.opcode (next - BitVec.ofNat 16 i.length) (totalCycles i.opcode extra branch)) } :=
  rfl

end Sys2Proof.Machine.Laws
end

