-- ==== Sys2Proof/Laws/Memory.lean ====
section
/-! SUPPORT. The laws of memory: read after write, and the canonical form, which every memory operation keeps. -/

namespace Sys2Proof.Machine.Laws

/-! ## Read after write -/

theorem get_erase (m : Memory) (a b : Nat) :
    (m.erase a).get b = if b = a then Config.unlistedByte else m.get b := by
  induction m with
  | nil => simp [Memory.erase, Memory.get]
  | cons c m ih =>
    obtain ⟨k, w⟩ := c
    simp only [Memory.erase] at ih ⊢
    by_cases hk : k = a
    · subst hk
      simp only [List.filter_cons, bne_self_eq_false, Bool.false_eq_true, if_false, ih, Memory.get]
      split <;> rfl
    · simp only [List.filter_cons, bne_iff_ne, ne_eq, hk, not_false_eq_true, if_true, Memory.get, ih]
      by_cases hb : b = k
      · simp [hb, hk]
      · simp [hb]

theorem get_insert (m : Memory) (a b : Nat) (v : Byte) (h : ∀ c ∈ m, c.1 ≠ a) :
    (m.insert a v).get b = if b = a then v else m.get b := by
  induction m with
  | nil => simp [Memory.insert, Memory.get]
  | cons c m ih =>
    obtain ⟨k, w⟩ := c
    have hk : k ≠ a := h (k, w) (by simp)
    have ih := ih fun c hc => h c (by simp [hc])
    simp only [Memory.insert]
    split
    · simp [Memory.get]
    · simp only [Memory.get, ih]
      by_cases hb : b = k
      · simp [hb, hk]
      · simp [hb]

/-- A write is read back, and leaves every other byte alone, in any list of cells. -/
theorem get_set (m : Memory) (a b : Nat) (v : Byte) : (m.set a v).get b = if b = a then v else m.get b := by
  unfold Memory.set
  split
  · next h => rw [get_erase, h]
  · rw [get_insert _ _ _ _ (by simp [Memory.erase]), get_erase]
    by_cases hb : b = a <;> simp [hb]

/-! ## The canonical form -/

theorem wfFrom_mono {lo lo' : Nat} {m : Memory} (h : Memory.wfFrom lo m = true) (hl : lo' ≤ lo) :
    Memory.wfFrom lo' m = true := by
  cases m with
  | nil => rfl
  | cons c m =>
    simp only [Memory.wfFrom, Bool.and_eq_true, decide_eq_true_eq] at h ⊢
    exact ⟨⟨⟨by omega, h.1.1.2⟩, h.1.2⟩, h.2⟩

theorem wfFrom_erase (m : Memory) (a lo : Nat) (h : Memory.wfFrom lo m = true) :
    Memory.wfFrom lo (m.erase a) = true := by
  induction m generalizing lo with
  | nil => exact h
  | cons c m ih =>
    obtain ⟨k, w⟩ := c
    simp only [Memory.wfFrom, Bool.and_eq_true, decide_eq_true_eq] at h
    have ih := ih _ h.2
    simp only [Memory.erase, List.filter_cons] at ih ⊢
    split
    · simp only [Memory.wfFrom, Bool.and_eq_true, decide_eq_true_eq]
      exact ⟨h.1, ih⟩
    · exact wfFrom_mono ih (by omega)

theorem wfFrom_insert (m : Memory) (a lo : Nat) (v : Byte) (h : Memory.wfFrom lo m = true) (hm : ∀ c ∈ m, c.1 ≠ a)
    (hlo : lo ≤ a) (ha : a < 65536) (hv : v ≠ Config.unlistedByte) : Memory.wfFrom lo (m.insert a v) = true := by
  induction m generalizing lo with
  | nil => simp [Memory.insert, Memory.wfFrom, hlo, ha, hv]
  | cons c m ih =>
    obtain ⟨k, w⟩ := c
    have hk : k ≠ a := hm (k, w) (by simp)
    simp only [Memory.wfFrom, Bool.and_eq_true, decide_eq_true_eq] at h
    simp only [Memory.insert]
    split
    · simp only [Memory.wfFrom, Bool.and_eq_true, decide_eq_true_eq]
      exact ⟨⟨⟨hlo, ha⟩, hv⟩, ⟨⟨by omega, h.1.1.2⟩, h.1.2⟩, h.2⟩
    · simp only [Memory.wfFrom, Bool.and_eq_true, decide_eq_true_eq]
      exact ⟨h.1, ih _ h.2 (fun c hc => hm c (by simp [hc])) (by omega)⟩

/-- A write at an address of the 16-bit space keeps the canonical form. -/
theorem wf_set {m : Memory} (h : m.wf = true) (a : Addr) (v : Byte) : (m.set a.toNat v).wf = true := by
  unfold Memory.set
  split
  · exact wfFrom_erase _ _ _ h
  · exact wfFrom_insert _ _ _ _ (wfFrom_erase _ _ _ h) (by simp [Memory.erase]) (Nat.zero_le _) a.isLt ‹_›

/-- The memory of the state after reset has the canonical form. -/
theorem reset_mem_wf : State.reset.mem.wf = true := rfl

/-- Whatever the bus is, a write through it keeps the canonical form. -/
theorem wf_writeByte {m : Memory} (b : Bus) (h : m.wf = true) (a : Addr) (v : Byte) :
    (b.writeByte m a v).wf = true := by
  unfold Bus.writeByte
  split
  · exact h
  · exact wf_set h a v
  · exact h

theorem wf_write {s : State} (h : s.mem.wf = true) (a : Addr) (v : Byte) : (s.write a v).mem.wf = true :=
  wf_writeByte s.bus h a v

theorem wf_push {s : State} (h : s.mem.wf = true) (v : Byte) : (s.push v).mem.wf = true := wf_writeByte s.bus h _ v

theorem wf_pushWord {s : State} (h : s.mem.wf = true) (w : Addr) : (s.pushWord w).mem.wf = true :=
  wf_push (wf_push h _) _

theorem wf_enterException {s : State} (h : s.mem.wf = true) (w : Addr) (b : Bool) :
    (s.enterException w b).mem.wf = true := by
  rw [enterException_mem]
  exact wf_push (wf_pushWord h _) _

theorem wf_placeByte {s : State} (h : s.mem.wf = true) (a : Addr) (v : Byte) : (s.placeByte a v).mem.wf = true :=
  wf_set h a v

theorem wf_placeBytes {s : State} (h : s.mem.wf = true) (a : Addr) (bytes : List Byte) :
    (s.placeBytes a bytes).mem.wf = true := by
  induction bytes generalizing s a with
  | nil => exact h
  | cons v rest ih => exact ih (wf_placeByte h a v) _

theorem wf_hostMove {s : State} (h : s.mem.wf = true) (m : HostMove) : (s.hostMove m).mem.wf = true := by
  cases m with
  | lines n i => exact h
  | reset => exact h
  | poke a v => exact wf_set h a v
  | remap r => exact h

theorem wf_hostMoves {s : State} (h : s.mem.wf = true) (moves : List HostMove) :
    (moves.foldl State.hostMove s).mem.wf = true := by
  induction moves generalizing s with
  | nil => exact h
  | cons m rest ih => exact ih (wf_hostMove h m)

theorem wf_hostTurn {s : State} (h : s.mem.wf = true) : s.hostTurn.mem.wf = true :=
  wf_hostMoves (s := { s with accesses := [], busPast := _, schedule := s.schedule.tail }) h _

/-! ## Reading a byte after a write through the bus -/

@[simp] theorem peek_write (s : State) (a b : Addr) (v : Byte) :
    (s.write a v).peek b = if s.unitAt a = .ram ∧ b = a then v else s.peek b := by
  simp only [State.peek, State.unitAt, write_mem, Bus.writeByte]
  split <;> simp_all [get_set, BitVec.toNat_inj]

@[simp] theorem peek_push (s : State) (b : Addr) (v : Byte) :
    (s.push v).peek b = if s.unitAt (stackAddr s.sp) = .ram ∧ b = stackAddr s.sp then v else s.peek b :=
  peek_write s (stackAddr s.sp) b v

/-- Where RAM answers, the bus answers the byte that holds still there. -/
theorem answer_ram {s : State} {a : Addr} (h : s.unitAt a = .ram) : s.answer a = s.peek a := by
  have h : s.bus.unitAt a = .ram := h
  simp [State.answer, Bus.readByte, State.peek, h]

/-- Where no oracle answers, the bus answers the byte that holds still, whatever it has seen before. -/
theorem answer_still {s : State} {a : Addr} (h : s.unitAt a ≠ .oracle) : s.answer a = s.peek a := by
  have h : s.bus.unitAt a ≠ .oracle := h
  simp only [State.answer, Bus.readByte, State.peek]
  split <;> simp_all

/-- Where an oracle answers, the answer is the free value of all that the bus has seen. -/
theorem answer_oracle {s : State} {a : Addr} (h : s.unitAt a = .oracle) :
    s.answer a = Config.busOracle s.busSeen a := by
  have h : s.bus.unitAt a = .oracle := h
  simp [State.answer, Bus.readByte, h]

end Sys2Proof.Machine.Laws
end

