-- ==== Sys2Proof/Laws/Operands.lean ====
section
/-! SUPPORT. What the resolver and the operand operations do to the state: reads on the bus, and for a
read-modify-write one byte. -/

namespace Sys2Proof.Machine.Laws

/-! ## The resolver -/

@[simp] theorem readZeroPagePointer_fst (s : State) (p : Byte) :
    (s.readZeroPagePointer p).1 = join ((s.afterRead (zext16 p)).answer (zext16 (p + 1))) (s.answer (zext16 p)) := rfl
@[simp] theorem readZeroPagePointer_snd (s : State) (p : Byte) :
    (s.readZeroPagePointer p).2 = (s.afterRead (zext16 p)).afterRead (zext16 (p + 1)) := rfl

/-- The resolver's state is the one it was given, or that one after the two reads of a page-0 pointer. -/
theorem resolve_after (m : MemOperand) (s : State) :
    (m.resolve s).after = s ∨ ∃ p q : Addr, (m.resolve s).after = (s.afterRead p).afterRead q := by
  cases m with
  | zp d => exact .inl rfl
  | zpx d => exact .inl rfl
  | zpy d => exact .inl rfl
  | abs a => exact .inl rfl
  | abx a => exact .inl rfl
  | aby a => exact .inl rfl
  | izx d => exact .inr ⟨_, _, rfl⟩
  | izy d => exact .inr ⟨_, _, rfl⟩

@[simp] theorem resolve_a (m : MemOperand) (s : State) : (m.resolve s).after.a = s.a := by
  cases m <;> rfl
@[simp] theorem resolve_x (m : MemOperand) (s : State) : (m.resolve s).after.x = s.x := by
  cases m <;> rfl
@[simp] theorem resolve_y (m : MemOperand) (s : State) : (m.resolve s).after.y = s.y := by
  cases m <;> rfl
@[simp] theorem resolve_sp (m : MemOperand) (s : State) : (m.resolve s).after.sp = s.sp := by
  cases m <;> rfl
@[simp] theorem resolve_pc (m : MemOperand) (s : State) : (m.resolve s).after.pc = s.pc := by
  cases m <;> rfl
@[simp] theorem resolve_flags (m : MemOperand) (s : State) : (m.resolve s).after.flags = s.flags := by
  cases m <;> rfl
@[simp] theorem resolve_latency (m : MemOperand) (s : State) : (m.resolve s).after.latency = s.latency := by
  cases m <;> rfl
@[simp] theorem resolve_nmiPrev (m : MemOperand) (s : State) : (m.resolve s).after.nmiPrev = s.nmiPrev := by
  cases m <;> rfl
@[simp] theorem resolve_nmi (m : MemOperand) (s : State) : (m.resolve s).after.nmi = s.nmi := by
  cases m <;> rfl
@[simp] theorem resolve_irq (m : MemOperand) (s : State) : (m.resolve s).after.irq = s.irq := by
  cases m <;> rfl
@[simp] theorem resolve_schedule (m : MemOperand) (s : State) : (m.resolve s).after.schedule = s.schedule := by
  cases m <;> rfl
@[simp] theorem resolve_policy (m : MemOperand) (s : State) : (m.resolve s).after.policy = s.policy := by
  cases m <;> rfl
@[simp] theorem resolve_mem (m : MemOperand) (s : State) : (m.resolve s).after.mem = s.mem := by
  cases m <;> rfl
@[simp] theorem resolve_bus (m : MemOperand) (s : State) : (m.resolve s).after.bus = s.bus := by
  cases m <;> rfl
@[simp] theorem resolve_busPast (m : MemOperand) (s : State) : (m.resolve s).after.busPast = s.busPast := by
  cases m <;> rfl
@[simp] theorem resolve_result (m : MemOperand) (s : State) : (m.resolve s).after.result = s.result := by
  cases m <;> rfl
@[simp] theorem resolve_peek (m : MemOperand) (s : State) (b : Addr) : (m.resolve s).after.peek b = s.peek b := by
  simp [State.peek]
@[simp] theorem resolve_unitAt (m : MemOperand) (s : State) (b : Addr) :
    (m.resolve s).after.unitAt b = s.unitAt b := by
  simp [State.unitAt]

/-! ## Reading an operand -/

@[simp] theorem memLoad_value (m : MemOperand) (s : State) :
    (m.load s).value = (m.resolve s).after.answer (m.resolve s).addr := rfl
@[simp] theorem memLoad_extra (m : MemOperand) (s : State) : (m.load s).extra = (m.resolve s).extra := rfl
@[simp] theorem memLoad_after (m : MemOperand) (s : State) :
    (m.load s).after = (m.resolve s).after.afterRead (m.resolve s).addr := rfl
@[simp] theorem load_imm (v : Byte) (s : State) :
    (Source.imm v).load s = { value := v, extra := false, after := s } := rfl
@[simp] theorem load_mem (m : MemOperand) (s : State) : (Source.mem m).load s = m.load s := rfl
@[simp] theorem load_after_a (o : Source) (s : State) : (o.load s).after.a = s.a := by
  cases o <;> simp
@[simp] theorem load_after_x (o : Source) (s : State) : (o.load s).after.x = s.x := by
  cases o <;> simp
@[simp] theorem load_after_y (o : Source) (s : State) : (o.load s).after.y = s.y := by
  cases o <;> simp
@[simp] theorem load_after_sp (o : Source) (s : State) : (o.load s).after.sp = s.sp := by
  cases o <;> simp
@[simp] theorem load_after_pc (o : Source) (s : State) : (o.load s).after.pc = s.pc := by
  cases o <;> simp
@[simp] theorem load_after_flags (o : Source) (s : State) : (o.load s).after.flags = s.flags := by
  cases o <;> simp
@[simp] theorem load_after_latency (o : Source) (s : State) : (o.load s).after.latency = s.latency := by
  cases o <;> simp
@[simp] theorem load_after_nmiPrev (o : Source) (s : State) : (o.load s).after.nmiPrev = s.nmiPrev := by
  cases o <;> simp
@[simp] theorem load_after_nmi (o : Source) (s : State) : (o.load s).after.nmi = s.nmi := by
  cases o <;> simp
@[simp] theorem load_after_irq (o : Source) (s : State) : (o.load s).after.irq = s.irq := by
  cases o <;> simp
@[simp] theorem load_after_schedule (o : Source) (s : State) : (o.load s).after.schedule = s.schedule := by
  cases o <;> simp
@[simp] theorem load_after_policy (o : Source) (s : State) : (o.load s).after.policy = s.policy := by
  cases o <;> simp
@[simp] theorem load_after_mem (o : Source) (s : State) : (o.load s).after.mem = s.mem := by
  cases o <;> simp
@[simp] theorem load_after_bus (o : Source) (s : State) : (o.load s).after.bus = s.bus := by
  cases o <;> simp
@[simp] theorem load_after_busPast (o : Source) (s : State) : (o.load s).after.busPast = s.busPast := by
  cases o <;> simp
@[simp] theorem load_after_result (o : Source) (s : State) : (o.load s).after.result = s.result := by
  cases o <;> simp
@[simp] theorem load_after_peek (o : Source) (s : State) (b : Addr) : (o.load s).after.peek b = s.peek b := by
  simp [State.peek]

/-! ## A read-modify-write -/

@[simp] theorem modify_acc (f : Byte → Byte) (s : State) :
    Place.acc.modify f s = { value := s.a, extra := false, after := { s with a := f s.a } } := rfl
@[simp] theorem modify_mem (m : MemOperand) (f : Byte → Byte) (s : State) :
    (Place.mem m).modify f s =
      { value := (m.load s).value
        extra := (m.resolve s).extra
        after := (m.load s).after.write (m.resolve s).addr (f (m.load s).value) } := rfl

/-! ## The target of JMP -/

@[simp] theorem jumpResolve_abs (a : Addr) (s : State) : (JumpOperand.abs a).resolve s = (a, s) := rfl
@[simp] theorem jumpResolve_ind (p : Addr) (s : State) : (JumpOperand.ind p).resolve s =
    (join ((s.afterRead p).answer (join (hiByte p) (loByte p + 1))) (s.answer p),
      (s.afterRead p).afterRead (join (hiByte p) (loByte p + 1))) := rfl

end Sys2Proof.Machine.Laws
end

