-- ==== Sys2Proof/Laws/Cycles.lean ====
section
/-! SUPPORT. Opcode bytes and cycle counts by (kind, mode), over the tables; and retirement as the predicate Retired. -/

namespace Sys2Proof.Machine.Laws

/-- The modes that can signal the extra cycle. -/
def crossModes : List Mode := [.abx, .aby, .izy]

/-- Only an indexed mode signals the extra cycle. -/
theorem resolve_extra_mode {m : MemOperand} {s : State} (h : (m.resolve s).extra = true) : m.mode ∈ crossModes := by
  cases m <;> simp_all [MemOperand.resolve, MemOperand.mode, crossModes]

theorem load_extra_mode {o : Source} {s : State} (h : (o.load s).extra = true) : o.mode ∈ crossModes := by
  cases o with
  | imm v => simp at h
  | mem m => exact resolve_extra_mode h

/-- A mode that the well-formedness of an instruction allows it. -/
theorem mode_of_wf {i : Instr} (h : i.wf = true) : i.mode ∈ i.kind.modes := by
  simp only [Instr.wf, Instr.modeAllowed, Bool.and_eq_true, List.contains_iff_mem] at h
  exact h.1

/-- The kinds whose rules price a read operand: the base count, and one more on a page cross. -/
def readKinds : List Kind := [.lda, .ldx, .ldy, .adc, .sbc, .and, .ora, .eor, .bit, .cmp, .cpx, .cpy]

theorem read_total_table : ∀ k ∈ readKinds, ∀ m ∈ k.modes, ∀ e : Bool, (e = true → m ∈ crossModes) →
    totalCycles (opcodeOf k m) e 0 = readCost m + bitValue e ∧ 1 ≤ readCost m + bitValue e ∧
      readCost m + bitValue e ≤ 8 ∧ (m, opcodeOf k m) ∈ k.rows := by
  decide

theorem store_total_table : ∀ k ∈ ([.sta, .stx, .sty] : List Kind), ∀ m ∈ k.modes, ∀ e : Bool,
    totalCycles (opcodeOf k m) e 0 = storeCost m ∧ 1 ≤ storeCost m ∧ storeCost m ≤ 8 ∧
      (m, opcodeOf k m) ∈ k.rows := by
  decide

theorem modify_total_table : ∀ k ∈ ([.inc, .dec, .asl, .lsr, .rol, .ror] : List Kind), ∀ m ∈ k.modes, ∀ e : Bool,
    totalCycles (opcodeOf k m) e 0 = modifyCost m ∧ 1 ≤ modifyCost m ∧ modifyCost m ≤ 8 ∧
      (m, opcodeOf k m) ∈ k.rows := by
  decide

/-- Retirement with the opcode byte, the length and the count written out. -/
theorem retire_as {i : Instr} {next : Addr} {e : Bool} {branch : Nat} {u : State} {opcode : Byte} {length total : Nat}
    (ho : i.opcode = opcode) (hl : i.length = length) (ht : totalCycles opcode e branch = total) :
    retire i next e branch u = .next { u with
      latency := BitVec.ofNat 3 (total - 1)
      result := some (.executed opcode (next - BitVec.ofNat 16 length) total) } := by
  rw [retire_eq, ho, hl, ht]

/-- What retirement leaves, read as `Retired`. -/
theorem retired_of {i : Instr} {e : Bool} {branch cost : Nat} (s u : State)
    (h : totalCycles i.opcode e branch = cost) (h1 : 1 ≤ cost) (h2 : cost ≤ 8) :
    Retired i.opcode i.length cost s { u with
      latency := BitVec.ofNat 3 (totalCycles i.opcode e branch - 1)
      result := some (.executed i.opcode (s.pc - BitVec.ofNat 16 i.length) (totalCycles i.opcode e branch)) } := by
  subst h
  refine ⟨rfl, ?_⟩
  simp only [BitVec.toNat_ofNat]
  omega

/-- The opcode byte is the (kind, mode) pair's. -/
theorem opcode_eq {i : Instr} (h : i.kind ≠ .undefined) : i.opcode = opcodeOf i.kind i.mode := by
  cases i <;> first | rfl | exact absurd rfl h

/-- Every mode. -/
def allModes : List Mode :=
  [.acc, .imm, .imp, .zp, .zpx, .zpy, .abs, .abx, .aby, .rel, .ind, .izx, .izy, .undefined]

theorem mem_allModes (m : Mode) : m ∈ allModes := by
  cases m <;> decide

/-- Base counts are 2 to 7, at most 5 where a page cross is paid for, and 2 for a branch. -/
theorem base_table : ∀ k : Kind, k ≠ .undefined → ∀ m ∈ allModes,
    2 ≤ baseCycles (opcodeOf k m) ∧ baseCycles (opcodeOf k m) ≤ 7 ∧
      (pagePenalty (opcodeOf k m) = true → baseCycles (opcodeOf k m) ≤ 5) := by
  intro k
  cases k <;> decide

/-- Only the nine read kinds of R247 in an indexed mode pay for a page cross. -/
theorem penalty_table : ∀ k : Kind, k ≠ .undefined → ∀ m ∈ allModes, pagePenalty (opcodeOf k m) = true →
    k ∈ ([.adc, .and, .cmp, .eor, .lda, .ldx, .ldy, .ora, .sbc] : List Kind) ∧
      m ∈ ([.abx, .aby, .izy] : List Mode) := by
  intro k
  cases k <;> decide

/-- The kinds of the eight branches. -/
def branchKinds : List Kind := [.bcc, .bcs, .beq, .bne, .bmi, .bpl, .bvc, .bvs]

theorem branch_table : ∀ k ∈ branchKinds,
    baseCycles (opcodeOf k .rel) = 2 ∧ pagePenalty (opcodeOf k .rel) = false := by
  decide

/-- Only the branches are Relative. -/
theorem branch_of_rel {i : Instr} (h : i.mode = .rel) : i.kind ∈ branchKinds := by
  cases i with
  | lda o => rcases o with _ | (_ | _) <;> cases h
  | ldx o => rcases o with _ | (_ | _) <;> cases h
  | ldy o => rcases o with _ | (_ | _) <;> cases h
  | sta m => cases m <;> cases h
  | stx m => cases m <;> cases h
  | sty m => cases m <;> cases h
  | adc o => rcases o with _ | (_ | _) <;> cases h
  | sbc o => rcases o with _ | (_ | _) <;> cases h
  | and o => rcases o with _ | (_ | _) <;> cases h
  | ora o => rcases o with _ | (_ | _) <;> cases h
  | eor o => rcases o with _ | (_ | _) <;> cases h
  | bit m => cases m <;> cases h
  | cmp o => rcases o with _ | (_ | _) <;> cases h
  | cpx o => rcases o with _ | (_ | _) <;> cases h
  | cpy o => rcases o with _ | (_ | _) <;> cases h
  | inc m => cases m <;> cases h
  | dec m => cases m <;> cases h
  | asl p => rcases p with _ | (_ | _) <;> cases h
  | lsr p => rcases p with _ | (_ | _) <;> cases h
  | rol p => rcases p with _ | (_ | _) <;> cases h
  | ror p => rcases p with _ | (_ | _) <;> cases h
  | jmp j => cases j <;> cases h
  | _ => first | (cases h; done) | simp [Instr.kind, branchKinds]

/-- The total count, in this machine's configuration (49_execution_engine.md R245). -/
theorem totalCycles_eq (opcode : Byte) (e : Bool) (branch : Nat) : totalCycles opcode e branch =
    baseCycles opcode + (if e && pagePenalty opcode then 1 else 0) + branch := rfl

/-- The total of any instruction is 2 to 7 cycles, with all its extra cycles. -/
theorem total_bounds {i : Instr} (h : i.kind ≠ .undefined) (e : Bool) (branch : Nat)
    (hb : branch = 0 ∨ (branch ≤ 2 ∧ i.mode = .rel)) :
    2 ≤ totalCycles i.opcode e branch ∧ totalCycles i.opcode e branch ≤ 7 := by
  obtain ⟨h1, h2, h3⟩ := base_table i.kind h i.mode (mem_allModes _)
  rw [opcode_eq h, totalCycles_eq]
  rcases hb with rfl | ⟨hb, hr⟩
  · split
    · next hp =>
      have := h3 (by simp only [Bool.and_eq_true] at hp; exact hp.2)
      omega
    · omega
  · obtain ⟨r1, r2⟩ := branch_table i.kind (branch_of_rel hr)
    rw [hr, r1, r2, Bool.and_false]
    simp only [Bool.false_eq_true, if_false]
    omega

end Sys2Proof.Machine.Laws
end

