-- ==== Sys2Proof/Laws/Decode.lean ====
section
/-! SUPPORT. The decode table, entry by entry: every entry owns its opcode byte, and its instruction is well-formed and
has the length the entry asks for. -/

namespace Sys2Proof.Machine.Laws

/-- What an entry of the decode table says of its opcode byte. -/
def SlotFits (opcode : Byte) (slot : Slot) : Prop :=
  (slot = .undef ∧ opcode ∈ undefinedBytes) ∨
  (∃ i, slot = .one i ∧ encode i = [opcode] ∧ i.length = 1 ∧ i.wf = true ∧ i.kind ≠ .undefined) ∨
  (∃ f, slot = .two f ∧ ∀ d, encode (f d) = [opcode, d] ∧ (f d).length = 2 ∧ (f d).wf = true ∧
    (f d).kind ≠ .undefined) ∨
  (∃ f, slot = .three f ∧ ∀ w, encode (f w) = [opcode, loByte w, hiByte w] ∧ (f w).length = 3 ∧ (f w).wf = true ∧
    (f w).kind ≠ .undefined)

theorem slotFits_undef {opcode : Byte} (h : slotOf opcode = .undef) (hm : opcode ∈ undefinedBytes) :
    SlotFits opcode (slotOf opcode) := .inl ⟨h, hm⟩

theorem slotFits_one {opcode : Byte} (i : Instr) (h : slotOf opcode = .one i) (he : encode i = [opcode])
    (hl : i.length = 1) (hw : i.wf = true) (hk : i.kind ≠ .undefined) : SlotFits opcode (slotOf opcode) :=
  .inr (.inl ⟨i, h, he, hl, hw, hk⟩)

theorem slotFits_two {opcode : Byte} (f : Byte → Instr) (h : slotOf opcode = .two f)
    (hf : ∀ d, encode (f d) = [opcode, d] ∧ (f d).length = 2 ∧ (f d).wf = true ∧ (f d).kind ≠ .undefined) :
    SlotFits opcode (slotOf opcode) := .inr (.inr (.inl ⟨f, h, hf⟩))

theorem slotFits_three {opcode : Byte} (f : Addr → Instr) (h : slotOf opcode = .three f)
    (hf : ∀ w, encode (f w) = [opcode, loByte w, hiByte w] ∧ (f w).length = 3 ∧ (f w).wf = true ∧
      (f w).kind ≠ .undefined) : SlotFits opcode (slotOf opcode) := .inr (.inr (.inr ⟨f, h, hf⟩))

theorem slotFits_row0 (n : Nat) (h : n < 16) : SlotFits (BitVec.ofNat 8 (0 + n)) (slotOf (BitVec.ofNat 8 (0 + n))) := by
  interval_cases n
  · exact slotFits_one _ rfl rfl rfl rfl Kind.noConfusion
  · exact slotFits_two _ rfl fun _ => ⟨rfl, rfl, rfl, Kind.noConfusion⟩
  · exact slotFits_undef rfl (by decide)
  · exact slotFits_undef rfl (by decide)
  · exact slotFits_undef rfl (by decide)
  · exact slotFits_two _ rfl fun _ => ⟨rfl, rfl, rfl, Kind.noConfusion⟩
  · exact slotFits_two _ rfl fun _ => ⟨rfl, rfl, rfl, Kind.noConfusion⟩
  · exact slotFits_undef rfl (by decide)
  · exact slotFits_one _ rfl rfl rfl rfl Kind.noConfusion
  · exact slotFits_two _ rfl fun _ => ⟨rfl, rfl, rfl, Kind.noConfusion⟩
  · exact slotFits_one _ rfl rfl rfl rfl Kind.noConfusion
  · exact slotFits_undef rfl (by decide)
  · exact slotFits_undef rfl (by decide)
  · exact slotFits_three _ rfl fun _ => ⟨rfl, rfl, rfl, Kind.noConfusion⟩
  · exact slotFits_three _ rfl fun _ => ⟨rfl, rfl, rfl, Kind.noConfusion⟩
  · exact slotFits_undef rfl (by decide)

theorem slotFits_row1 (n : Nat) (h : n < 16) : SlotFits (BitVec.ofNat 8 (16 + n)) (slotOf (BitVec.ofNat 8 (16 + n))) := by
  interval_cases n
  · exact slotFits_two _ rfl fun _ => ⟨rfl, rfl, rfl, Kind.noConfusion⟩
  · exact slotFits_two _ rfl fun _ => ⟨rfl, rfl, rfl, Kind.noConfusion⟩
  · exact slotFits_undef rfl (by decide)
  · exact slotFits_undef rfl (by decide)
  · exact slotFits_undef rfl (by decide)
  · exact slotFits_two _ rfl fun _ => ⟨rfl, rfl, rfl, Kind.noConfusion⟩
  · exact slotFits_two _ rfl fun _ => ⟨rfl, rfl, rfl, Kind.noConfusion⟩
  · exact slotFits_undef rfl (by decide)
  · exact slotFits_one _ rfl rfl rfl rfl Kind.noConfusion
  · exact slotFits_three _ rfl fun _ => ⟨rfl, rfl, rfl, Kind.noConfusion⟩
  · exact slotFits_undef rfl (by decide)
  · exact slotFits_undef rfl (by decide)
  · exact slotFits_undef rfl (by decide)
  · exact slotFits_three _ rfl fun _ => ⟨rfl, rfl, rfl, Kind.noConfusion⟩
  · exact slotFits_three _ rfl fun _ => ⟨rfl, rfl, rfl, Kind.noConfusion⟩
  · exact slotFits_undef rfl (by decide)

theorem slotFits_row2 (n : Nat) (h : n < 16) : SlotFits (BitVec.ofNat 8 (32 + n)) (slotOf (BitVec.ofNat 8 (32 + n))) := by
  interval_cases n
  · exact slotFits_three _ rfl fun _ => ⟨rfl, rfl, rfl, Kind.noConfusion⟩
  · exact slotFits_two _ rfl fun _ => ⟨rfl, rfl, rfl, Kind.noConfusion⟩
  · exact slotFits_undef rfl (by decide)
  · exact slotFits_undef rfl (by decide)
  · exact slotFits_two _ rfl fun _ => ⟨rfl, rfl, rfl, Kind.noConfusion⟩
  · exact slotFits_two _ rfl fun _ => ⟨rfl, rfl, rfl, Kind.noConfusion⟩
  · exact slotFits_two _ rfl fun _ => ⟨rfl, rfl, rfl, Kind.noConfusion⟩
  · exact slotFits_undef rfl (by decide)
  · exact slotFits_one _ rfl rfl rfl rfl Kind.noConfusion
  · exact slotFits_two _ rfl fun _ => ⟨rfl, rfl, rfl, Kind.noConfusion⟩
  · exact slotFits_one _ rfl rfl rfl rfl Kind.noConfusion
  · exact slotFits_undef rfl (by decide)
  · exact slotFits_three _ rfl fun _ => ⟨rfl, rfl, rfl, Kind.noConfusion⟩
  · exact slotFits_three _ rfl fun _ => ⟨rfl, rfl, rfl, Kind.noConfusion⟩
  · exact slotFits_three _ rfl fun _ => ⟨rfl, rfl, rfl, Kind.noConfusion⟩
  · exact slotFits_undef rfl (by decide)

theorem slotFits_row3 (n : Nat) (h : n < 16) : SlotFits (BitVec.ofNat 8 (48 + n)) (slotOf (BitVec.ofNat 8 (48 + n))) := by
  interval_cases n
  · exact slotFits_two _ rfl fun _ => ⟨rfl, rfl, rfl, Kind.noConfusion⟩
  · exact slotFits_two _ rfl fun _ => ⟨rfl, rfl, rfl, Kind.noConfusion⟩
  · exact slotFits_undef rfl (by decide)
  · exact slotFits_undef rfl (by decide)
  · exact slotFits_undef rfl (by decide)
  · exact slotFits_two _ rfl fun _ => ⟨rfl, rfl, rfl, Kind.noConfusion⟩
  · exact slotFits_two _ rfl fun _ => ⟨rfl, rfl, rfl, Kind.noConfusion⟩
  · exact slotFits_undef rfl (by decide)
  · exact slotFits_one _ rfl rfl rfl rfl Kind.noConfusion
  · exact slotFits_three _ rfl fun _ => ⟨rfl, rfl, rfl, Kind.noConfusion⟩
  · exact slotFits_undef rfl (by decide)
  · exact slotFits_undef rfl (by decide)
  · exact slotFits_undef rfl (by decide)
  · exact slotFits_three _ rfl fun _ => ⟨rfl, rfl, rfl, Kind.noConfusion⟩
  · exact slotFits_three _ rfl fun _ => ⟨rfl, rfl, rfl, Kind.noConfusion⟩
  · exact slotFits_undef rfl (by decide)

theorem slotFits_row4 (n : Nat) (h : n < 16) : SlotFits (BitVec.ofNat 8 (64 + n)) (slotOf (BitVec.ofNat 8 (64 + n))) := by
  interval_cases n
  · exact slotFits_one _ rfl rfl rfl rfl Kind.noConfusion
  · exact slotFits_two _ rfl fun _ => ⟨rfl, rfl, rfl, Kind.noConfusion⟩
  · exact slotFits_undef rfl (by decide)
  · exact slotFits_undef rfl (by decide)
  · exact slotFits_undef rfl (by decide)
  · exact slotFits_two _ rfl fun _ => ⟨rfl, rfl, rfl, Kind.noConfusion⟩
  · exact slotFits_two _ rfl fun _ => ⟨rfl, rfl, rfl, Kind.noConfusion⟩
  · exact slotFits_undef rfl (by decide)
  · exact slotFits_one _ rfl rfl rfl rfl Kind.noConfusion
  · exact slotFits_two _ rfl fun _ => ⟨rfl, rfl, rfl, Kind.noConfusion⟩
  · exact slotFits_one _ rfl rfl rfl rfl Kind.noConfusion
  · exact slotFits_undef rfl (by decide)
  · exact slotFits_three _ rfl fun _ => ⟨rfl, rfl, rfl, Kind.noConfusion⟩
  · exact slotFits_three _ rfl fun _ => ⟨rfl, rfl, rfl, Kind.noConfusion⟩
  · exact slotFits_three _ rfl fun _ => ⟨rfl, rfl, rfl, Kind.noConfusion⟩
  · exact slotFits_undef rfl (by decide)

theorem slotFits_row5 (n : Nat) (h : n < 16) : SlotFits (BitVec.ofNat 8 (80 + n)) (slotOf (BitVec.ofNat 8 (80 + n))) := by
  interval_cases n
  · exact slotFits_two _ rfl fun _ => ⟨rfl, rfl, rfl, Kind.noConfusion⟩
  · exact slotFits_two _ rfl fun _ => ⟨rfl, rfl, rfl, Kind.noConfusion⟩
  · exact slotFits_undef rfl (by decide)
  · exact slotFits_undef rfl (by decide)
  · exact slotFits_undef rfl (by decide)
  · exact slotFits_two _ rfl fun _ => ⟨rfl, rfl, rfl, Kind.noConfusion⟩
  · exact slotFits_two _ rfl fun _ => ⟨rfl, rfl, rfl, Kind.noConfusion⟩
  · exact slotFits_undef rfl (by decide)
  · exact slotFits_one _ rfl rfl rfl rfl Kind.noConfusion
  · exact slotFits_three _ rfl fun _ => ⟨rfl, rfl, rfl, Kind.noConfusion⟩
  · exact slotFits_undef rfl (by decide)
  · exact slotFits_undef rfl (by decide)
  · exact slotFits_undef rfl (by decide)
  · exact slotFits_three _ rfl fun _ => ⟨rfl, rfl, rfl, Kind.noConfusion⟩
  · exact slotFits_three _ rfl fun _ => ⟨rfl, rfl, rfl, Kind.noConfusion⟩
  · exact slotFits_undef rfl (by decide)

theorem slotFits_row6 (n : Nat) (h : n < 16) : SlotFits (BitVec.ofNat 8 (96 + n)) (slotOf (BitVec.ofNat 8 (96 + n))) := by
  interval_cases n
  · exact slotFits_one _ rfl rfl rfl rfl Kind.noConfusion
  · exact slotFits_two _ rfl fun _ => ⟨rfl, rfl, rfl, Kind.noConfusion⟩
  · exact slotFits_undef rfl (by decide)
  · exact slotFits_undef rfl (by decide)
  · exact slotFits_undef rfl (by decide)
  · exact slotFits_two _ rfl fun _ => ⟨rfl, rfl, rfl, Kind.noConfusion⟩
  · exact slotFits_two _ rfl fun _ => ⟨rfl, rfl, rfl, Kind.noConfusion⟩
  · exact slotFits_undef rfl (by decide)
  · exact slotFits_one _ rfl rfl rfl rfl Kind.noConfusion
  · exact slotFits_two _ rfl fun _ => ⟨rfl, rfl, rfl, Kind.noConfusion⟩
  · exact slotFits_one _ rfl rfl rfl rfl Kind.noConfusion
  · exact slotFits_undef rfl (by decide)
  · exact slotFits_three _ rfl fun _ => ⟨rfl, rfl, rfl, Kind.noConfusion⟩
  · exact slotFits_three _ rfl fun _ => ⟨rfl, rfl, rfl, Kind.noConfusion⟩
  · exact slotFits_three _ rfl fun _ => ⟨rfl, rfl, rfl, Kind.noConfusion⟩
  · exact slotFits_undef rfl (by decide)

theorem slotFits_row7 (n : Nat) (h : n < 16) : SlotFits (BitVec.ofNat 8 (112 + n)) (slotOf (BitVec.ofNat 8 (112 + n))) := by
  interval_cases n
  · exact slotFits_two _ rfl fun _ => ⟨rfl, rfl, rfl, Kind.noConfusion⟩
  · exact slotFits_two _ rfl fun _ => ⟨rfl, rfl, rfl, Kind.noConfusion⟩
  · exact slotFits_undef rfl (by decide)
  · exact slotFits_undef rfl (by decide)
  · exact slotFits_undef rfl (by decide)
  · exact slotFits_two _ rfl fun _ => ⟨rfl, rfl, rfl, Kind.noConfusion⟩
  · exact slotFits_two _ rfl fun _ => ⟨rfl, rfl, rfl, Kind.noConfusion⟩
  · exact slotFits_undef rfl (by decide)
  · exact slotFits_one _ rfl rfl rfl rfl Kind.noConfusion
  · exact slotFits_three _ rfl fun _ => ⟨rfl, rfl, rfl, Kind.noConfusion⟩
  · exact slotFits_undef rfl (by decide)
  · exact slotFits_undef rfl (by decide)
  · exact slotFits_undef rfl (by decide)
  · exact slotFits_three _ rfl fun _ => ⟨rfl, rfl, rfl, Kind.noConfusion⟩
  · exact slotFits_three _ rfl fun _ => ⟨rfl, rfl, rfl, Kind.noConfusion⟩
  · exact slotFits_undef rfl (by decide)

theorem slotFits_row8 (n : Nat) (h : n < 16) : SlotFits (BitVec.ofNat 8 (128 + n)) (slotOf (BitVec.ofNat 8 (128 + n))) := by
  interval_cases n
  · exact slotFits_undef rfl (by decide)
  · exact slotFits_two _ rfl fun _ => ⟨rfl, rfl, rfl, Kind.noConfusion⟩
  · exact slotFits_undef rfl (by decide)
  · exact slotFits_undef rfl (by decide)
  · exact slotFits_two _ rfl fun _ => ⟨rfl, rfl, rfl, Kind.noConfusion⟩
  · exact slotFits_two _ rfl fun _ => ⟨rfl, rfl, rfl, Kind.noConfusion⟩
  · exact slotFits_two _ rfl fun _ => ⟨rfl, rfl, rfl, Kind.noConfusion⟩
  · exact slotFits_undef rfl (by decide)
  · exact slotFits_one _ rfl rfl rfl rfl Kind.noConfusion
  · exact slotFits_undef rfl (by decide)
  · exact slotFits_one _ rfl rfl rfl rfl Kind.noConfusion
  · exact slotFits_undef rfl (by decide)
  · exact slotFits_three _ rfl fun _ => ⟨rfl, rfl, rfl, Kind.noConfusion⟩
  · exact slotFits_three _ rfl fun _ => ⟨rfl, rfl, rfl, Kind.noConfusion⟩
  · exact slotFits_three _ rfl fun _ => ⟨rfl, rfl, rfl, Kind.noConfusion⟩
  · exact slotFits_undef rfl (by decide)

theorem slotFits_row9 (n : Nat) (h : n < 16) : SlotFits (BitVec.ofNat 8 (144 + n)) (slotOf (BitVec.ofNat 8 (144 + n))) := by
  interval_cases n
  · exact slotFits_two _ rfl fun _ => ⟨rfl, rfl, rfl, Kind.noConfusion⟩
  · exact slotFits_two _ rfl fun _ => ⟨rfl, rfl, rfl, Kind.noConfusion⟩
  · exact slotFits_undef rfl (by decide)
  · exact slotFits_undef rfl (by decide)
  · exact slotFits_two _ rfl fun _ => ⟨rfl, rfl, rfl, Kind.noConfusion⟩
  · exact slotFits_two _ rfl fun _ => ⟨rfl, rfl, rfl, Kind.noConfusion⟩
  · exact slotFits_two _ rfl fun _ => ⟨rfl, rfl, rfl, Kind.noConfusion⟩
  · exact slotFits_undef rfl (by decide)
  · exact slotFits_one _ rfl rfl rfl rfl Kind.noConfusion
  · exact slotFits_three _ rfl fun _ => ⟨rfl, rfl, rfl, Kind.noConfusion⟩
  · exact slotFits_one _ rfl rfl rfl rfl Kind.noConfusion
  · exact slotFits_undef rfl (by decide)
  · exact slotFits_undef rfl (by decide)
  · exact slotFits_three _ rfl fun _ => ⟨rfl, rfl, rfl, Kind.noConfusion⟩
  · exact slotFits_undef rfl (by decide)
  · exact slotFits_undef rfl (by decide)

theorem slotFits_rowA (n : Nat) (h : n < 16) : SlotFits (BitVec.ofNat 8 (160 + n)) (slotOf (BitVec.ofNat 8 (160 + n))) := by
  interval_cases n
  · exact slotFits_two _ rfl fun _ => ⟨rfl, rfl, rfl, Kind.noConfusion⟩
  · exact slotFits_two _ rfl fun _ => ⟨rfl, rfl, rfl, Kind.noConfusion⟩
  · exact slotFits_two _ rfl fun _ => ⟨rfl, rfl, rfl, Kind.noConfusion⟩
  · exact slotFits_undef rfl (by decide)
  · exact slotFits_two _ rfl fun _ => ⟨rfl, rfl, rfl, Kind.noConfusion⟩
  · exact slotFits_two _ rfl fun _ => ⟨rfl, rfl, rfl, Kind.noConfusion⟩
  · exact slotFits_two _ rfl fun _ => ⟨rfl, rfl, rfl, Kind.noConfusion⟩
  · exact slotFits_undef rfl (by decide)
  · exact slotFits_one _ rfl rfl rfl rfl Kind.noConfusion
  · exact slotFits_two _ rfl fun _ => ⟨rfl, rfl, rfl, Kind.noConfusion⟩
  · exact slotFits_one _ rfl rfl rfl rfl Kind.noConfusion
  · exact slotFits_undef rfl (by decide)
  · exact slotFits_three _ rfl fun _ => ⟨rfl, rfl, rfl, Kind.noConfusion⟩
  · exact slotFits_three _ rfl fun _ => ⟨rfl, rfl, rfl, Kind.noConfusion⟩
  · exact slotFits_three _ rfl fun _ => ⟨rfl, rfl, rfl, Kind.noConfusion⟩
  · exact slotFits_undef rfl (by decide)

theorem slotFits_rowB (n : Nat) (h : n < 16) : SlotFits (BitVec.ofNat 8 (176 + n)) (slotOf (BitVec.ofNat 8 (176 + n))) := by
  interval_cases n
  · exact slotFits_two _ rfl fun _ => ⟨rfl, rfl, rfl, Kind.noConfusion⟩
  · exact slotFits_two _ rfl fun _ => ⟨rfl, rfl, rfl, Kind.noConfusion⟩
  · exact slotFits_undef rfl (by decide)
  · exact slotFits_undef rfl (by decide)
  · exact slotFits_two _ rfl fun _ => ⟨rfl, rfl, rfl, Kind.noConfusion⟩
  · exact slotFits_two _ rfl fun _ => ⟨rfl, rfl, rfl, Kind.noConfusion⟩
  · exact slotFits_two _ rfl fun _ => ⟨rfl, rfl, rfl, Kind.noConfusion⟩
  · exact slotFits_undef rfl (by decide)
  · exact slotFits_one _ rfl rfl rfl rfl Kind.noConfusion
  · exact slotFits_three _ rfl fun _ => ⟨rfl, rfl, rfl, Kind.noConfusion⟩
  · exact slotFits_one _ rfl rfl rfl rfl Kind.noConfusion
  · exact slotFits_undef rfl (by decide)
  · exact slotFits_three _ rfl fun _ => ⟨rfl, rfl, rfl, Kind.noConfusion⟩
  · exact slotFits_three _ rfl fun _ => ⟨rfl, rfl, rfl, Kind.noConfusion⟩
  · exact slotFits_three _ rfl fun _ => ⟨rfl, rfl, rfl, Kind.noConfusion⟩
  · exact slotFits_undef rfl (by decide)

theorem slotFits_rowC (n : Nat) (h : n < 16) : SlotFits (BitVec.ofNat 8 (192 + n)) (slotOf (BitVec.ofNat 8 (192 + n))) := by
  interval_cases n
  · exact slotFits_two _ rfl fun _ => ⟨rfl, rfl, rfl, Kind.noConfusion⟩
  · exact slotFits_two _ rfl fun _ => ⟨rfl, rfl, rfl, Kind.noConfusion⟩
  · exact slotFits_undef rfl (by decide)
  · exact slotFits_undef rfl (by decide)
  · exact slotFits_two _ rfl fun _ => ⟨rfl, rfl, rfl, Kind.noConfusion⟩
  · exact slotFits_two _ rfl fun _ => ⟨rfl, rfl, rfl, Kind.noConfusion⟩
  · exact slotFits_two _ rfl fun _ => ⟨rfl, rfl, rfl, Kind.noConfusion⟩
  · exact slotFits_undef rfl (by decide)
  · exact slotFits_one _ rfl rfl rfl rfl Kind.noConfusion
  · exact slotFits_two _ rfl fun _ => ⟨rfl, rfl, rfl, Kind.noConfusion⟩
  · exact slotFits_one _ rfl rfl rfl rfl Kind.noConfusion
  · exact slotFits_undef rfl (by decide)
  · exact slotFits_three _ rfl fun _ => ⟨rfl, rfl, rfl, Kind.noConfusion⟩
  · exact slotFits_three _ rfl fun _ => ⟨rfl, rfl, rfl, Kind.noConfusion⟩
  · exact slotFits_three _ rfl fun _ => ⟨rfl, rfl, rfl, Kind.noConfusion⟩
  · exact slotFits_undef rfl (by decide)

theorem slotFits_rowD (n : Nat) (h : n < 16) : SlotFits (BitVec.ofNat 8 (208 + n)) (slotOf (BitVec.ofNat 8 (208 + n))) := by
  interval_cases n
  · exact slotFits_two _ rfl fun _ => ⟨rfl, rfl, rfl, Kind.noConfusion⟩
  · exact slotFits_two _ rfl fun _ => ⟨rfl, rfl, rfl, Kind.noConfusion⟩
  · exact slotFits_undef rfl (by decide)
  · exact slotFits_undef rfl (by decide)
  · exact slotFits_undef rfl (by decide)
  · exact slotFits_two _ rfl fun _ => ⟨rfl, rfl, rfl, Kind.noConfusion⟩
  · exact slotFits_two _ rfl fun _ => ⟨rfl, rfl, rfl, Kind.noConfusion⟩
  · exact slotFits_undef rfl (by decide)
  · exact slotFits_one _ rfl rfl rfl rfl Kind.noConfusion
  · exact slotFits_three _ rfl fun _ => ⟨rfl, rfl, rfl, Kind.noConfusion⟩
  · exact slotFits_undef rfl (by decide)
  · exact slotFits_undef rfl (by decide)
  · exact slotFits_undef rfl (by decide)
  · exact slotFits_three _ rfl fun _ => ⟨rfl, rfl, rfl, Kind.noConfusion⟩
  · exact slotFits_three _ rfl fun _ => ⟨rfl, rfl, rfl, Kind.noConfusion⟩
  · exact slotFits_undef rfl (by decide)

theorem slotFits_rowE (n : Nat) (h : n < 16) : SlotFits (BitVec.ofNat 8 (224 + n)) (slotOf (BitVec.ofNat 8 (224 + n))) := by
  interval_cases n
  · exact slotFits_two _ rfl fun _ => ⟨rfl, rfl, rfl, Kind.noConfusion⟩
  · exact slotFits_two _ rfl fun _ => ⟨rfl, rfl, rfl, Kind.noConfusion⟩
  · exact slotFits_undef rfl (by decide)
  · exact slotFits_undef rfl (by decide)
  · exact slotFits_two _ rfl fun _ => ⟨rfl, rfl, rfl, Kind.noConfusion⟩
  · exact slotFits_two _ rfl fun _ => ⟨rfl, rfl, rfl, Kind.noConfusion⟩
  · exact slotFits_two _ rfl fun _ => ⟨rfl, rfl, rfl, Kind.noConfusion⟩
  · exact slotFits_undef rfl (by decide)
  · exact slotFits_one _ rfl rfl rfl rfl Kind.noConfusion
  · exact slotFits_two _ rfl fun _ => ⟨rfl, rfl, rfl, Kind.noConfusion⟩
  · exact slotFits_one _ rfl rfl rfl rfl Kind.noConfusion
  · exact slotFits_undef rfl (by decide)
  · exact slotFits_three _ rfl fun _ => ⟨rfl, rfl, rfl, Kind.noConfusion⟩
  · exact slotFits_three _ rfl fun _ => ⟨rfl, rfl, rfl, Kind.noConfusion⟩
  · exact slotFits_three _ rfl fun _ => ⟨rfl, rfl, rfl, Kind.noConfusion⟩
  · exact slotFits_undef rfl (by decide)

theorem slotFits_rowF (n : Nat) (h : n < 16) : SlotFits (BitVec.ofNat 8 (240 + n)) (slotOf (BitVec.ofNat 8 (240 + n))) := by
  interval_cases n
  · exact slotFits_two _ rfl fun _ => ⟨rfl, rfl, rfl, Kind.noConfusion⟩
  · exact slotFits_two _ rfl fun _ => ⟨rfl, rfl, rfl, Kind.noConfusion⟩
  · exact slotFits_undef rfl (by decide)
  · exact slotFits_undef rfl (by decide)
  · exact slotFits_undef rfl (by decide)
  · exact slotFits_two _ rfl fun _ => ⟨rfl, rfl, rfl, Kind.noConfusion⟩
  · exact slotFits_two _ rfl fun _ => ⟨rfl, rfl, rfl, Kind.noConfusion⟩
  · exact slotFits_undef rfl (by decide)
  · exact slotFits_one _ rfl rfl rfl rfl Kind.noConfusion
  · exact slotFits_three _ rfl fun _ => ⟨rfl, rfl, rfl, Kind.noConfusion⟩
  · exact slotFits_undef rfl (by decide)
  · exact slotFits_undef rfl (by decide)
  · exact slotFits_undef rfl (by decide)
  · exact slotFits_three _ rfl fun _ => ⟨rfl, rfl, rfl, Kind.noConfusion⟩
  · exact slotFits_three _ rfl fun _ => ⟨rfl, rfl, rfl, Kind.noConfusion⟩
  · exact slotFits_undef rfl (by decide)

/-- Every opcode byte's entry fits it. -/
theorem slotFits (opcode : Byte) : SlotFits opcode (slotOf opcode) := by
  have hlt := opcode.isLt
  have key : ∀ r n, opcode.toNat = 16 * r + n → n < 16 →
      SlotFits (BitVec.ofNat 8 (16 * r + n)) (slotOf (BitVec.ofNat 8 (16 * r + n))) := by
    intro r n he hn
    have hr : r < 16 := by omega
    interval_cases r
    · exact slotFits_row0 n hn
    · exact slotFits_row1 n hn
    · exact slotFits_row2 n hn
    · exact slotFits_row3 n hn
    · exact slotFits_row4 n hn
    · exact slotFits_row5 n hn
    · exact slotFits_row6 n hn
    · exact slotFits_row7 n hn
    · exact slotFits_row8 n hn
    · exact slotFits_row9 n hn
    · exact slotFits_rowA n hn
    · exact slotFits_rowB n hn
    · exact slotFits_rowC n hn
    · exact slotFits_rowD n hn
    · exact slotFits_rowE n hn
    · exact slotFits_rowF n hn
  have := key (opcode.toNat / 16) (opcode.toNat % 16) (by omega) (by omega)
  rwa [Nat.div_add_mod, BitVec.ofNat_toNat, BitVec.setWidth_eq] at this

end Sys2Proof.Machine.Laws
end

