-- ==== Sys2Proof/Laws/Stack.lean ====
section
/-! SUPPORT. The stack slots of a push and a pop, and what one, two and three pushes store. -/

namespace Sys2Proof.Machine.Laws

/-! ## The slots -/

theorem slotBelow_eq (s : State) (k : Nat) (hk : k ≤ 256) : slotBelow s k = stackAddr (s.sp - BitVec.ofNat 8 k) := by
  apply BitVec.eq_of_toNat_eq
  have := s.sp.isLt
  rw [stackAddr_toNat, slotBelow, BitVec.toNat_ofNat, BitVec.toNat_sub, BitVec.toNat_ofNat]
  omega

theorem slotAbove_eq (s : State) (k : Nat) : slotAbove s k = stackAddr (s.sp + BitVec.ofNat 8 k) := by
  apply BitVec.eq_of_toNat_eq
  have := s.sp.isLt
  rw [stackAddr_toNat, slotAbove, BitVec.toNat_ofNat, BitVec.toNat_add, BitVec.toNat_ofNat]
  omega

theorem slotBelow_zero (s : State) : slotBelow s 0 = stackAddr s.sp := by
  rw [slotBelow_eq s 0 (by decide), BitVec.sub_zero]

theorem slotBelow_one (s : State) : slotBelow s 1 = stackAddr (s.sp - 1) := slotBelow_eq s 1 (by decide)

theorem slotBelow_two (s : State) : slotBelow s 2 = stackAddr (s.sp - 1 - 1) := by
  rw [slotBelow_eq s 2 (by decide), BitVec.sub_sub]
  rfl

theorem slotAbove_one (s : State) : slotAbove s 1 = stackAddr (s.sp + 1) := slotAbove_eq s 1

theorem slotAbove_two (s : State) : slotAbove s 2 = stackAddr (s.sp + 1 + 1) := by
  rw [slotAbove_eq s 2, BitVec.add_assoc]
  rfl

theorem slotAbove_three (s : State) : slotAbove s 3 = stackAddr (s.sp + 1 + 1 + 1) := by
  rw [slotAbove_eq s 3, BitVec.add_assoc, BitVec.add_assoc]
  rfl

/-! ## What is stored -/

theorem storesOnly_refl {s t : State} (h : t.mem = s.mem) : StoresOnly s t [] :=
  ⟨fun b _ => by simp only [State.peek, h], fun w hw => by simp at hw, fun b _ => by simp only [State.peek, h]⟩

/-- One more store, at an address that the stores before it did not touch. -/
theorem storesOnly_write {s u t : State} {stores : List (Addr × Byte)} {a : Addr} {v : Byte}
    (hu : StoresOnly s u stores) (hm : u.bus = s.bus) (ha : a ∉ stores.map Prod.fst) (ht : t.mem = (u.write a v).mem) :
    StoresOnly s t (stores ++ [(a, v)]) := by
  have hp : ∀ b, t.peek b = if s.unitAt a = .ram ∧ b = a then v else u.peek b := fun b => by
    have hw : t.peek b = (u.write a v).peek b := by rw [State.peek, State.peek, ht]
    rw [hw, peek_write, State.unitAt, State.unitAt, hm]
  obtain ⟨h1, h2, h3⟩ := hu
  refine ⟨fun b hb => ?_, fun w hw hr => ?_, fun b hb => ?_⟩
  · simp only [List.map_append, List.mem_append, List.map_cons, List.map_nil, List.mem_singleton, not_or] at hb
    rw [hp, if_neg (fun h => hb.2 h.2), h1 b hb.1]
  · rcases List.mem_append.1 hw with h | hw
    · rw [hp, if_neg, h2 w h hr]
      rintro ⟨_, rfl⟩
      exact ha (List.mem_map_of_mem h)
    · obtain rfl := List.mem_singleton.1 hw
      rw [hp, if_pos ⟨hr, rfl⟩]
  · rw [hp, if_neg, h3 b hb]
    rintro ⟨h, rfl⟩
    exact hb h

/-- A push stores at the slot SP points at. -/
theorem storesOnly_push {s t : State} (v : Byte) (ht : t.mem = (s.push v).mem) :
    StoresOnly s t [(slotBelow s 0, v)] := by
  rw [slotBelow_zero]
  exact storesOnly_write (storesOnly_refl rfl) rfl (by simp) ht

theorem storesOnly_push_push {s t : State} (v w : Byte) (ht : t.mem = ((s.push v).push w).mem) :
    StoresOnly s t [(slotBelow s 0, v), (slotBelow s 1, w)] := by
  have hd : s.sp - 1 ≠ s.sp := by bv_omega
  rw [slotBelow_one]
  refine storesOnly_write (storesOnly_push v rfl) (u := s.push v) rfl ?_ ht
  rw [slotBelow_zero, List.map_singleton, List.mem_singleton, stackAddr_inj]
  exact hd

theorem storesOnly_push_push_push {s t : State} (v w x : Byte) (ht : t.mem = (((s.push v).push w).push x).mem) :
    StoresOnly s t [(slotBelow s 0, v), (slotBelow s 1, w), (slotBelow s 2, x)] := by
  have hd : s.sp - 1 - 1 ≠ s.sp ∧ s.sp - 1 - 1 ≠ s.sp - 1 := by constructor <;> bv_omega
  rw [slotBelow_two]
  refine storesOnly_write (storesOnly_push_push v w rfl) (u := (s.push v).push w) rfl ?_ ht
  simp only [slotBelow_zero, slotBelow_one, List.map_cons, List.map_nil, List.mem_cons, List.not_mem_nil, or_false,
    stackAddr_inj]
  exact fun h => h.elim hd.1 hd.2

/-! ## Reading around a push -/

/-- A push stores in page 0x01, so that a byte elsewhere holds still. -/
theorem peek_push_other {s : State} {a : Addr} (v : Byte) (h : a.toNat / 256 ≠ 1) : (s.push v).peek a = s.peek a := by
  rw [peek_push, if_neg]
  rintro ⟨_, rfl⟩
  rw [stackAddr_toNat] at h
  have := s.sp.isLt
  omega

/-- A push is a write on the bus at the slot SP points at, and SP - 1. -/
theorem push_eq (s : State) (v : Byte) : s.push v = { s.write (slotBelow s 0) v with sp := s.sp - 1 } := by
  rw [slotBelow_zero]
  rfl

end Sys2Proof.Machine.Laws
end

