-- ==== Sys2Proof/Laws/Exception.lean ====
section
/-! SUPPORT. Taking an exception and returning from one: everything the two operations do, said once. -/

namespace Sys2Proof.Machine.Laws

/-- The bus after the three writes of an entry: the bytes pushed at the three slots from SP downward. -/
def afterEntryWrites (s : State) (hi lo p : Byte) : State :=
  ((s.write (slotBelow s 0) hi).write (slotBelow s 1) lo).write (slotBelow s 2) p

/-- What a read answers depends on the bus, on the bytes that hold still, and on what the bus has seen. -/
theorem answer_congr {s t : State} (a : Addr) (hb : t.bus = s.bus) (hm : t.mem = s.mem)
    (hs : t.busSeen = s.busSeen) : t.answer a = s.answer a := by
  simp only [State.answer, hb, hm, hs]

/-- The entry: three writes, then the two reads of the vector in the state that the writes leave. -/
theorem enterException_spec (s : State) (w : Addr) (b : Bool) :
    let u := afterEntryWrites s (hiByte s.pc) (loByte s.pc) (s.flags.statusByte b)
    (s.enterException w b).pc = join ((u.afterRead w).answer (w + 1)) (u.answer w) ∧
    (s.enterException w b).accesses = s.accesses ++ [.write (slotBelow s 0) (hiByte s.pc),
      .write (slotBelow s 1) (loByte s.pc), .write (slotBelow s 2) (s.flags.statusByte b),
      .read w (u.answer w), .read (w + 1) ((u.afterRead w).answer (w + 1))] ∧
    (s.enterException w b).busPast = s.busPast ∧
    StoresOnly s (s.enterException w b) [(slotBelow s 0, hiByte s.pc), (slotBelow s 1, loByte s.pc),
      (slotBelow s 2, s.flags.statusByte b)] := by
  refine ⟨?_, ?_, enterException_busPast s w b, storesOnly_push_push_push _ _ _ (enterException_mem s w b)⟩
  all_goals rw [afterEntryWrites, slotBelow_zero, slotBelow_one, slotBelow_two]
  · rfl
  · generalize hu : ((s.write (stackAddr s.sp) (hiByte s.pc)).write (stackAddr (s.sp - 1)) (loByte s.pc)).write
      (stackAddr (s.sp - 1 - 1)) (s.flags.statusByte b) = u
    have h : (s.enterException w b).accesses = ((u.afterRead w).afterRead (w + 1)).accesses := by
      subst hu
      rfl
    rw [h, afterRead_accesses, afterRead_accesses, ← hu]
    simp only [write_accesses, List.append_assoc, List.cons_append, List.nil_append]

/-- The three pops of the return, each in the state the pops before it leave. -/
theorem returnFromException_spec (s : State) :
    s.returnFromException.flags = Flags.ofStatus (s.answer (slotAbove s 1)) ∧
    s.returnFromException.pc = join
      (((s.afterRead (slotAbove s 1)).afterRead (slotAbove s 2)).answer (slotAbove s 3))
      ((s.afterRead (slotAbove s 1)).answer (slotAbove s 2)) ∧
    s.returnFromException.sp = s.sp + 1 + 1 + 1 ∧
    s.returnFromException.accesses =
      (((s.afterRead (slotAbove s 1)).afterRead (slotAbove s 2)).afterRead (slotAbove s 3)).accesses ∧
    s.returnFromException.busPast = s.busPast := by
  rw [returnFromException_eq, slotAbove_one, slotAbove_two, slotAbove_three]
  exact ⟨rfl, rfl, rfl, rfl, rfl⟩

end Sys2Proof.Machine.Laws
end

