-- ==== Sys2Proof/Laws/Exec.lean ====
section
/-! SUPPORT. What every instruction's meaning does, said once: it retires (or is UNDEFINED), it leaves the surroundings
alone, and it changes memory through bus writes only. -/

namespace Sys2Proof.Machine.Laws

/-! ## Memory changes through the bus -/

/-- `t` is `s` after `new` more bus transactions: memory differs only where RAM answers and `new` holds a write, and
keeps its canonical form. -/
def BusFrame (s t : State) (new : List BusAccess) : Prop :=
  SameSurroundings s t ∧ t.accesses = s.accesses ++ new ∧
    (∀ b : Addr, t.peek b ≠ s.peek b → s.unitAt b = .ram ∧ ∃ v : Byte, BusAccess.write b v ∈ new) ∧
    (s.mem.wf = true → t.mem.wf = true)

theorem busFrame_refl {s t : State} (hs : SameSurroundings s t) (ha : t.accesses = s.accesses) (hm : t.mem = s.mem) :
    BusFrame s t [] :=
  ⟨hs, by rw [ha, List.append_nil], fun b hb => absurd (by simp only [State.peek, hm]) hb, fun h => by rw [hm]; exact h⟩

theorem busFrame_trans {s t u : State} {new more : List BusAccess} (h : BusFrame s t new) (k : BusFrame t u more) :
    BusFrame s u (new ++ more) := by
  obtain ⟨⟨h1, h2, h3, h4, h5, h6, h7⟩, ha, hm, hw⟩ := h
  obtain ⟨⟨k1, k2, k3, k4, k5, k6, k7⟩, ka, km, kw⟩ := k
  refine ⟨⟨k1.trans h1, k2.trans h2, k3.trans h3, k4.trans h4, k5.trans h5, k6.trans h6, k7.trans h7⟩,
    by rw [ka, ha, List.append_assoc], fun b hb => ?_, fun h => kw (hw h)⟩
  by_cases hc : t.peek b = s.peek b
  · obtain ⟨hr, v, hv⟩ := km b (by rw [hc]; exact hb)
    refine ⟨?_, v, List.mem_append_right _ hv⟩
    rw [State.unitAt, ← h6]
    exact hr
  · obtain ⟨hr, v, hv⟩ := hm b hc
    exact ⟨hr, v, List.mem_append_left _ hv⟩

theorem busFrame_read (s : State) (a : Addr) : BusFrame s (s.afterRead a) [.read a (s.answer a)] :=
  ⟨⟨rfl, rfl, rfl, rfl, rfl, rfl, rfl⟩, rfl, fun _ hb => absurd rfl hb, id⟩

theorem busFrame_write (s : State) (a : Addr) (v : Byte) : BusFrame s (s.write a v) [.write a v] := by
  refine ⟨⟨rfl, rfl, rfl, rfl, rfl, rfl, rfl⟩, rfl, fun b hb => ?_, fun h => wf_write h a v⟩
  rw [peek_write] at hb
  by_cases h : s.unitAt a = .ram ∧ b = a
  · obtain ⟨hr, rfl⟩ := h
    exact ⟨hr, v, List.mem_singleton.2 rfl⟩
  · rw [if_neg h] at hb
    exact absurd rfl hb

theorem busFrame_pop (s : State) :
    BusFrame s s.pop.2 [.read (stackAddr (s.sp + 1)) (s.answer (stackAddr (s.sp + 1)))] :=
  ⟨⟨rfl, rfl, rfl, rfl, rfl, rfl, rfl⟩, rfl, fun _ hb => absurd rfl hb, id⟩

theorem busFrame_push (s : State) (v : Byte) : BusFrame s (s.push v) [.write (stackAddr s.sp) v] :=
  busFrame_write s (stackAddr s.sp) v

/-- The resolver only reads, and with the instruction's bytes makes at most four transactions. -/
theorem busFrame_resolve (m : MemOperand) (s : State) :
    ∃ new, BusFrame s (m.resolve s).after new ∧ new.length + m.mode.length ≤ 4 := by
  have h0 : BusFrame s s [] := busFrame_refl ⟨rfl, rfl, rfl, rfl, rfl, rfl, rfl⟩ rfl rfl
  cases m with
  | zp d => exact ⟨[], h0, Nat.le_of_ble_eq_true rfl⟩
  | zpx d => exact ⟨[], h0, Nat.le_of_ble_eq_true rfl⟩
  | zpy d => exact ⟨[], h0, Nat.le_of_ble_eq_true rfl⟩
  | abs a => exact ⟨[], h0, Nat.le_of_ble_eq_true rfl⟩
  | abx a => exact ⟨[], h0, Nat.le_of_ble_eq_true rfl⟩
  | aby a => exact ⟨[], h0, Nat.le_of_ble_eq_true rfl⟩
  | izx d => exact ⟨_, busFrame_trans (busFrame_read s _) (busFrame_read _ _), by simp [MemOperand.mode, Mode.length]⟩
  | izy d => exact ⟨_, busFrame_trans (busFrame_read s _) (busFrame_read _ _), by simp [MemOperand.mode, Mode.length]⟩

theorem busFrame_memLoad (m : MemOperand) (s : State) :
    ∃ new, BusFrame s (m.load s).after new ∧ new.length + m.mode.length ≤ 5 := by
  obtain ⟨new, h, hl⟩ := busFrame_resolve m s
  exact ⟨_, busFrame_trans h (busFrame_read _ _), by rw [List.length_append, List.length_singleton]; omega⟩

theorem busFrame_load (o : Source) (s : State) :
    ∃ new, BusFrame s (o.load s).after new ∧ new.length + o.mode.length ≤ 5 := by
  cases o with
  | imm v => exact ⟨[], busFrame_refl ⟨rfl, rfl, rfl, rfl, rfl, rfl, rfl⟩ rfl rfl, by simp [Source.mode, Mode.length]⟩
  | mem m => exact busFrame_memLoad m s

theorem busFrame_store (m : MemOperand) (s : State) (v : Byte) :
    ∃ new, BusFrame s ((m.resolve s).after.write (m.resolve s).addr v) new ∧ new.length + m.mode.length ≤ 5 := by
  obtain ⟨new, h, hl⟩ := busFrame_resolve m s
  exact ⟨_, busFrame_trans h (busFrame_write _ _ _), by rw [List.length_append, List.length_singleton]; omega⟩

theorem busFrame_modify (p : Place) (f : Byte → Byte) (s : State) :
    ∃ new, BusFrame s (p.modify f s).after new ∧ new.length + p.mode.length ≤ 6 := by
  cases p with
  | acc => exact ⟨[], busFrame_refl ⟨rfl, rfl, rfl, rfl, rfl, rfl, rfl⟩ rfl rfl, by decide⟩
  | mem m =>
    obtain ⟨new, h, hl⟩ := busFrame_memLoad m s
    refine ⟨_, busFrame_trans h (busFrame_write _ _ _), ?_⟩
    rw [List.length_append, List.length_singleton, Place.mode]
    omega

/-- A change of registers, flags, latency or result only. -/
theorem busFrame_core {s t u : State} {new : List BusAccess} (h : BusFrame s t new) (hs : SameSurroundings t u)
    (ha : u.accesses = t.accesses) (hm : u.mem = t.mem) : BusFrame s u new := by
  have := busFrame_trans h (busFrame_refl hs ha hm)
  rwa [List.append_nil] at this

/-- The entry: three writes in the stack page, then the two reads of the vector. -/
theorem busFrame_enterException (s : State) (w : Addr) (b : Bool) :
    ∃ (v1 v2 v3 r1 r2 : Byte), BusFrame s (s.enterException w b) [.write (stackAddr s.sp) v1,
      .write (stackAddr (s.sp - 1)) v2, .write (stackAddr (s.sp - 1 - 1)) v3, .read w r1, .read (w + 1) r2] := by
  refine ⟨hiByte s.pc, loByte s.pc, s.flags.statusByte b,
    State.answer { (s.pushWord s.pc).push (s.flags.statusByte b) with flags := { s.flags with i := true } } w,
    (State.afterRead { (s.pushWord s.pc).push (s.flags.statusByte b) with flags := { s.flags with i := true } } w).answer
      (w + 1), ?_⟩
  rw [enterException_eq]
  have h := busFrame_trans (busFrame_trans (busFrame_push s (hiByte s.pc)) (busFrame_push _ (loByte s.pc)))
    (busFrame_push _ (s.flags.statusByte b))
  exact busFrame_core (busFrame_trans (busFrame_trans
    (busFrame_core h (u := { (s.pushWord s.pc).push (s.flags.statusByte b) with flags := { s.flags with i := true } })
      ⟨rfl, rfl, rfl, rfl, rfl, rfl, rfl⟩ rfl rfl) (busFrame_read _ w)) (busFrame_read _ (w + 1)))
    ⟨rfl, rfl, rfl, rfl, rfl, rfl, rfl⟩ rfl rfl

/-! ## Every meaning retires -/

/-- What a meaning that is not UNDEFINED answers: the retirement of a state that the bus transactions lead to. -/
def Retires (i : Instr) (s : State) : Prop :=
  ∃ (extra : Bool) (branch : Nat) (u : State) (new : List BusAccess),
    exec i s = retire i s.pc extra branch u ∧ BusFrame s u new ∧ new.length + i.length ≤ 6 ∧
      (branch = 0 ∨ (branch ≤ 2 ∧ i.mode = .rel))

theorem retires_of {i : Instr} {s t u : State} {extra : Bool} {branch : Nat} {new : List BusAccess}
    (hx : exec i s = retire i s.pc extra branch u) (h : BusFrame s t new) (hs : SameSurroundings t u)
    (ha : u.accesses = t.accesses) (hm : u.mem = t.mem) (hl : new.length + i.length ≤ 6)
    (hb : branch = 0 ∨ (branch ≤ 2 ∧ i.mode = .rel)) : Retires i s :=
  ⟨extra, branch, u, new, hx, busFrame_core h hs ha hm, hl, hb⟩

/-- An instruction that reads an operand. -/
theorem retires_load {i : Instr} {s u : State} {extra : Bool} (o : Source) (hx : exec i s = retire i s.pc extra 0 u)
    (hs : SameSurroundings (o.load s).after u) (ha : u.accesses = (o.load s).after.accesses)
    (hm : u.mem = (o.load s).after.mem) (hl : i.length = o.mode.length) : Retires i s := by
  obtain ⟨new, h, hn⟩ := busFrame_load o s
  exact retires_of hx h hs ha hm (by omega) (.inl rfl)

/-- A store. -/
theorem retires_store {i : Instr} {s : State} {extra : Bool} {v : Byte} (m : MemOperand)
    (hx : exec i s = retire i s.pc extra 0 ((m.resolve s).after.write (m.resolve s).addr v))
    (hl : i.length = m.mode.length) : Retires i s := by
  obtain ⟨new, h, hn⟩ := busFrame_store m s v
  exact ⟨extra, 0, _, new, hx, h, by omega, .inl rfl⟩

/-- A read-modify-write. -/
theorem retires_modify {i : Instr} {s u : State} {extra : Bool} (p : Place) (f : Byte → Byte)
    (hx : exec i s = retire i s.pc extra 0 u) (hs : SameSurroundings (p.modify f s).after u)
    (ha : u.accesses = (p.modify f s).after.accesses) (hm : u.mem = (p.modify f s).after.mem)
    (hl : i.length = p.mode.length) : Retires i s := by
  obtain ⟨new, h, hn⟩ := busFrame_modify p f s
  exact retires_of hx h hs ha hm (by omega) (.inl rfl)

/-- An instruction that changes registers and flags only. -/
theorem retires_core {i : Instr} {s u : State} {extra : Bool} {branch : Nat}
    (hx : exec i s = retire i s.pc extra branch u) (hs : SameSurroundings s u) (ha : u.accesses = s.accesses)
    (hm : u.mem = s.mem) (hl : i.length ≤ 6) (hb : branch = 0 ∨ (branch ≤ 2 ∧ i.mode = .rel)) : Retires i s :=
  retires_of hx (busFrame_refl (t := s) ⟨rfl, rfl, rfl, rfl, rfl, rfl, rfl⟩ rfl rfl) hs ha hm (by simpa using hl) hb

/-- A branch. -/
theorem retires_branch {i : Instr} {s : State} {cond : Bool} {d : Byte} (hx : exec i s = branchOp i cond d s)
    (hi : i.mode = .rel) : Retires i s := by
  have hl : i.length ≤ 6 := by
    rw [Instr.length, hi]
    decide
  rw [branchOp] at hx
  cases cond with
  | false => exact retires_core hx ⟨rfl, rfl, rfl, rfl, rfl, rfl, rfl⟩ rfl rfl hl (.inl rfl)
  | true =>
    refine retires_core hx ⟨rfl, rfl, rfl, rfl, rfl, rfl, rfl⟩ rfl rfl hl (.inr ⟨?_, hi⟩)
    split <;> decide

/-- Every instruction but UNDEFINED retires, in every state. -/
theorem exec_retires (i : Instr) (s : State) (h : i.kind ≠ .undefined) : Retires i s := by
  have surr : ∀ t : State, SameSurroundings t t := fun _ => ⟨rfl, rfl, rfl, rfl, rfl, rfl, rfl⟩
  cases i with
  | lda o => exact retires_load o rfl (surr _) rfl rfl rfl
  | ldx o => exact retires_load o rfl (surr _) rfl rfl rfl
  | ldy o => exact retires_load o rfl (surr _) rfl rfl rfl
  | sta m => exact retires_store m rfl rfl
  | stx m => exact retires_store m rfl rfl
  | sty m => exact retires_store m rfl rfl
  | tax => exact retires_core rfl (surr _) rfl rfl (by decide) (.inl rfl)
  | tay => exact retires_core rfl (surr _) rfl rfl (by decide) (.inl rfl)
  | txa => exact retires_core rfl (surr _) rfl rfl (by decide) (.inl rfl)
  | tya => exact retires_core rfl (surr _) rfl rfl (by decide) (.inl rfl)
  | tsx => exact retires_core rfl (surr _) rfl rfl (by decide) (.inl rfl)
  | txs => exact retires_core rfl (surr _) rfl rfl (by decide) (.inl rfl)
  | adc o => exact retires_load o rfl (surr _) rfl rfl rfl
  | sbc o => exact retires_load o rfl (surr _) rfl rfl rfl
  | and o => exact retires_load o rfl (surr _) rfl rfl rfl
  | ora o => exact retires_load o rfl (surr _) rfl rfl rfl
  | eor o => exact retires_load o rfl (surr _) rfl rfl rfl
  | bit m => exact retires_load (.mem m) rfl (surr _) rfl rfl rfl
  | cmp o => exact retires_load o rfl (surr _) rfl rfl rfl
  | cpx o => exact retires_load o rfl (surr _) rfl rfl rfl
  | cpy o => exact retires_load o rfl (surr _) rfl rfl rfl
  | inc m => exact retires_modify (.mem m) (fun v => v + 1) rfl (surr _) rfl rfl rfl
  | dec m => exact retires_modify (.mem m) (fun v => v - 1) rfl (surr _) rfl rfl rfl
  | inx => exact retires_core rfl (surr _) rfl rfl (by decide) (.inl rfl)
  | iny => exact retires_core rfl (surr _) rfl rfl (by decide) (.inl rfl)
  | dex => exact retires_core rfl (surr _) rfl rfl (by decide) (.inl rfl)
  | dey => exact retires_core rfl (surr _) rfl rfl (by decide) (.inl rfl)
  | asl p => exact retires_modify p _ rfl (surr _) rfl rfl rfl
  | lsr p => exact retires_modify p _ rfl (surr _) rfl rfl rfl
  | rol p => exact retires_modify p _ rfl (surr _) rfl rfl rfl
  | ror p => exact retires_modify p _ rfl (surr _) rfl rfl rfl
  | clc => exact retires_core rfl (surr _) rfl rfl (by decide) (.inl rfl)
  | sec => exact retires_core rfl (surr _) rfl rfl (by decide) (.inl rfl)
  | cli => exact retires_core rfl (surr _) rfl rfl (by decide) (.inl rfl)
  | sei => exact retires_core rfl (surr _) rfl rfl (by decide) (.inl rfl)
  | cld => exact retires_core rfl (surr _) rfl rfl (by decide) (.inl rfl)
  | sed => exact retires_core rfl (surr _) rfl rfl (by decide) (.inl rfl)
  | clv => exact retires_core rfl (surr _) rfl rfl (by decide) (.inl rfl)
  | nop => exact retires_core rfl (surr _) rfl rfl (by decide) (.inl rfl)
  | bcc d => exact retires_branch rfl rfl
  | bcs d => exact retires_branch rfl rfl
  | beq d => exact retires_branch rfl rfl
  | bne d => exact retires_branch rfl rfl
  | bmi d => exact retires_branch rfl rfl
  | bpl d => exact retires_branch rfl rfl
  | bvc d => exact retires_branch rfl rfl
  | bvs d => exact retires_branch rfl rfl
  | jmp j =>
    cases j with
    | abs a => exact retires_core rfl (surr _) rfl rfl (Nat.le_of_ble_eq_true rfl) (.inl rfl)
    | ind p =>
      exact retires_of rfl (busFrame_trans (busFrame_read s p) (busFrame_read _ _)) (surr _) rfl rfl (Nat.le_of_ble_eq_true rfl) (.inl rfl)
  | jsr a =>
    exact retires_of rfl (busFrame_trans (busFrame_push s (hiByte (s.pc - 1))) (busFrame_push _ (loByte (s.pc - 1))))
      (surr _) rfl rfl (Nat.le_of_ble_eq_true rfl) (.inl rfl)
  | rts =>
    exact retires_of rfl (busFrame_trans (busFrame_pop s) (busFrame_pop s.pop.2)) (surr _) rfl rfl (Nat.le_of_ble_eq_true rfl) (.inl rfl)
  | pha => exact retires_of rfl (busFrame_push s s.a) (surr _) rfl rfl (Nat.le_of_ble_eq_true rfl) (.inl rfl)
  | php => exact retires_of rfl (busFrame_push s (s.flags.statusByte true)) (surr _) rfl rfl (Nat.le_of_ble_eq_true rfl) (.inl rfl)
  | pla => exact retires_of rfl (busFrame_pop s) (surr _) rfl rfl (Nat.le_of_ble_eq_true rfl) (.inl rfl)
  | plp => exact retires_of rfl (busFrame_pop s) (surr _) rfl rfl (Nat.le_of_ble_eq_true rfl) (.inl rfl)
  | brk =>
    obtain ⟨_, _, _, _, _, hf⟩ := busFrame_enterException { s with pc := s.pc + 1 } irqVector true
    exact ⟨false, 0, _, _, rfl, hf, Nat.le_of_ble_eq_true rfl, .inl rfl⟩
  | rti =>
    have h := busFrame_trans (busFrame_trans (busFrame_pop s) (busFrame_pop s.pop.2)) (busFrame_pop s.pop.2.pop.2)
    exact retires_of (u := s.returnFromException) rfl h (by rw [returnFromException_eq]; exact surr _)
      (by rw [returnFromException_eq]) (by rw [returnFromException_eq]) (Nat.le_of_ble_eq_true rfl) (.inl rfl)
  | undefined opcode => exact absurd rfl h

end Sys2Proof.Machine.Laws
end

