-- ==== Sys2Proof/Laws/Flags.lean ====
section
/-! SUPPORT. Every flag computation and every arithmetic helper as numbers: what a byte's bits say of its value, the sum
of ADC and SBC, the shifts, and the status byte. -/

namespace Sys2Proof.Machine.Laws

/-! ## Bits of a byte -/

theorem bit7 (v : Byte) : v.getLsbD 7 = decide (128 ≤ v.toNat) := by
  exact (BitVec.msb_eq_getLsbD_last v).symm.trans (BitVec.msb_eq_decide v)

theorem bitAt_toNat (b : Bool) (m : Byte) : (bitAt b m).toNat = m.toNat * bitValue b := by
  cases b <;> simp [bitAt, bitValue]

theorem eq_zero_iff (v : Byte) : (v == 0x00) = decide (v.toNat = 0) := by
  rw [beq_eq_decide, decide_eq_decide, ← BitVec.toNat_inj]
  rfl

/-! ## N and Z -/

@[simp] theorem setNZ_eq (f : Flags) (v : Byte) : f.setNZ v = flagsNZ f v.toNat := by
  rw [Flags.setNZ, flagsNZ, bit7, eq_zero_iff]

/-! ## ADC and SBC -/

theorem sum9_toNat (a m : Byte) (c : Bool) : (sum9 a m c).toNat = a.toNat + m.toNat + bitValue c := by
  have ha := a.isLt
  have hm := m.isLt
  cases c <;> simp [sum9, bitValue, BitVec.toNat_add] <;> omega

theorem addResult_toNat (a m : Byte) (c : Bool) :
    (addResult a m c).toNat = (a.toNat + m.toNat + bitValue c) % 256 := by
  rw [addResult, BitVec.toNat_setWidth, sum9_toNat]

theorem addCarry_eq (a m : Byte) (c : Bool) : addCarry a m c = decide (256 ≤ a.toNat + m.toNat + bitValue c) := by
  have h := (sum9 a m c).isLt
  rw [addCarry, BitVec.getLsbD, sum9_toNat, Nat.testBit_eq_decide_div_mod_eq, decide_eq_decide]
  rw [sum9_toNat] at h
  omega

theorem toInt_eq (v : Byte) : v.toInt = if 128 ≤ v.toNat then (v.toNat : Int) - 256 else v.toNat := by
  rw [BitVec.toInt_eq_toNat_cond]
  split <;> split <;> omega

theorem addOverflow_eq (a m : Byte) (c : Bool) :
    addOverflow a m c = decide (a.toInt + m.toInt + (bitValue c : Int) < -128 ∨
      127 < a.toInt + m.toInt + (bitValue c : Int)) := by
  have ha := a.isLt
  have hm := m.isLt
  have hc : bitValue c ≤ 1 := by cases c <;> decide
  rw [addOverflow, BitVec.getLsbD_and, BitVec.getLsbD_xor, BitVec.getLsbD_xor, bit7, bit7, bit7, addResult_toNat,
    toInt_eq, toInt_eq]
  by_cases h1 : 128 ≤ a.toNat <;> by_cases h2 : 128 ≤ m.toNat <;>
    by_cases h3 : 128 ≤ (a.toNat + m.toNat + bitValue c) % 256 <;> simp [h1, h2, h3] <;> omega

/-- The one's complement that SBC adds. -/
theorem complement_toNat (m : Byte) : (m ^^^ 0xFF).toNat = 255 - m.toNat := by
  rw [show (0xFF : Byte) = BitVec.allOnes 8 from rfl, BitVec.xor_allOnes, BitVec.toNat_not]

/-! ## Compares, BIT -/

theorem setCompare_eq (f : Flags) (r m : Byte) : f.setCompare r m = { f with
    c := decide (m.toNat ≤ r.toNat), z := decide (r.toNat = m.toNat),
    n := decide (128 ≤ (r.toNat + 256 - m.toNat) % 256) } := by
  have hm := m.isLt
  have hz : (r == m) = decide (r.toNat = m.toNat) := by
    rw [beq_eq_decide, decide_eq_decide, ← BitVec.toNat_inj]
  have hn : (r - m).toNat = (r.toNat + 256 - m.toNat) % 256 := by
    rw [BitVec.toNat_sub]
    omega
  rw [Flags.setCompare, bit7, hz, hn]
  rfl

theorem bit6 (v : Byte) : v.getLsbD 6 = decide (64 ≤ v.toNat % 128) := by
  rw [BitVec.getLsbD, Nat.testBit_eq_decide_div_mod_eq, decide_eq_decide]
  omega

theorem setBit_eq (f : Flags) (a m : Byte) : f.setBit a m = { f with
    z := decide ((a &&& m).toNat = 0), n := decide (128 ≤ m.toNat), v := decide (64 ≤ m.toNat % 128) } := by
  rw [Flags.setBit, bit7, bit6, eq_zero_iff]

/-! ## Shifts and rotates -/

theorem bit0 (v : Byte) : v.getLsbD 0 = decide (v.toNat % 2 = 1) := by
  rw [BitVec.getLsbD, Nat.testBit_eq_decide_div_mod_eq, Nat.pow_zero, Nat.div_one]

theorem setShift_eq (f : Flags) (r : Byte) (out : Bool) :
    f.setShift r out = { flagsNZ f r.toNat with c := out } := by
  rw [Flags.setShift, bit7, eq_zero_iff, flagsNZ]

theorem shiftLeft_toNat (v : Byte) (c : Bool) : (shiftLeft v c).1.toNat = 2 * v.toNat % 256 := by
  rw [shiftLeft, BitVec.toNat_shiftLeft, Nat.shiftLeft_eq, Nat.mul_comm]

theorem shiftRight_toNat (v : Byte) (c : Bool) : (shiftRight v c).1.toNat = v.toNat / 2 := by
  rw [shiftRight, BitVec.toNat_ushiftRight, Nat.shiftRight_eq_div_pow]

theorem rotateLeft_toNat (v : Byte) (c : Bool) :
    (rotateLeft v c).1.toNat = (2 * v.toNat + bitValue c) % 256 := by
  revert v c
  decide

theorem rotateRight_toNat (v : Byte) (c : Bool) :
    (rotateRight v c).1.toNat = v.toNat / 2 + 128 * bitValue c := by
  revert v c
  decide

/-! ## The status byte -/

theorem statusByte_toNat (f : Flags) (b : Bool) : (f.statusByte b).toNat =
    128 * bitValue f.n + 64 * bitValue f.v + 32 + 16 * bitValue b + 8 * bitValue f.d + 4 * bitValue f.i +
      2 * bitValue f.z + bitValue f.c := by
  obtain ⟨n, v, k, d, i, z, c⟩ := f
  revert n v k d i z c b
  decide

/-- Pulling a pushed status byte gives the flags back, with B the bit that was pushed. -/
@[simp] theorem ofStatus_statusByte (f : Flags) (b : Bool) : Flags.ofStatus (f.statusByte b) = { f with b := b } := by
  obtain ⟨n, v, k, d, i, z, c⟩ := f
  revert n v k d i z c b
  decide

theorem ofStatus_eq (p : Byte) : Flags.ofStatus p =
    { n := decide (p.toNat / 128 % 2 = 1), v := decide (p.toNat / 64 % 2 = 1), b := decide (p.toNat / 16 % 2 = 1),
      d := decide (p.toNat / 8 % 2 = 1), i := decide (p.toNat / 4 % 2 = 1), z := decide (p.toNat / 2 % 2 = 1),
      c := decide (p.toNat % 2 = 1) } := by
  simp only [Flags.ofStatus, BitVec.getLsbD, Nat.testBit_eq_decide_div_mod_eq]
  norm_num

end Sys2Proof.Machine.Laws
end

