-- ==== Sys2Proof/Laws/PerInstr.lean ====
section
/-! SUPPORT. The family TableRow: every well-formed instruction's opcode byte decodes to its kind and its mode, one lemma
for each constructor of Instr. -/

namespace Sys2Proof.Laws

open Sys2Proof.Machine.Laws

/-- Every row of 30_encoding.md R87 is in the table of R86. -/
theorem row_decodes : ∀ k : Kind, k ≠ .undefined → ∀ m ∈ k.modes, decodeKindMode (opcodeOf k m) = (k, m) := by
  intro k
  cases k <;> decide

/-- The sentinel's bytes decode to the sentinel pair. -/
theorem undefined_decodes : ∀ opcode ∈ undefinedBytes, decodeKindMode opcode = (.undefined, .undefined) := by
  decide

/-- The opcode byte of a well-formed instruction decodes to its kind and mode. -/
def TableRow.Statement (i : Instr) : Prop := i.wf = true → decodeKindMode i.opcode = (i.kind, i.mode)

theorem TableRow.of_kind {i : Instr} (h : i.kind ≠ .undefined) : TableRow.Statement i := fun hw => by
  rw [opcode_eq h]
  exact row_decodes i.kind h i.mode (mode_of_wf hw)

theorem TableRow.lda (o : Source) : TableRow.Statement (.lda o) := TableRow.of_kind Kind.noConfusion
theorem TableRow.ldx (o : Source) : TableRow.Statement (.ldx o) := TableRow.of_kind Kind.noConfusion
theorem TableRow.ldy (o : Source) : TableRow.Statement (.ldy o) := TableRow.of_kind Kind.noConfusion
theorem TableRow.sta (m : MemOperand) : TableRow.Statement (.sta m) := TableRow.of_kind Kind.noConfusion
theorem TableRow.stx (m : MemOperand) : TableRow.Statement (.stx m) := TableRow.of_kind Kind.noConfusion
theorem TableRow.sty (m : MemOperand) : TableRow.Statement (.sty m) := TableRow.of_kind Kind.noConfusion
theorem TableRow.tax : TableRow.Statement .tax := TableRow.of_kind Kind.noConfusion
theorem TableRow.tay : TableRow.Statement .tay := TableRow.of_kind Kind.noConfusion
theorem TableRow.txa : TableRow.Statement .txa := TableRow.of_kind Kind.noConfusion
theorem TableRow.tya : TableRow.Statement .tya := TableRow.of_kind Kind.noConfusion
theorem TableRow.tsx : TableRow.Statement .tsx := TableRow.of_kind Kind.noConfusion
theorem TableRow.txs : TableRow.Statement .txs := TableRow.of_kind Kind.noConfusion
theorem TableRow.adc (o : Source) : TableRow.Statement (.adc o) := TableRow.of_kind Kind.noConfusion
theorem TableRow.sbc (o : Source) : TableRow.Statement (.sbc o) := TableRow.of_kind Kind.noConfusion
theorem TableRow.and (o : Source) : TableRow.Statement (.and o) := TableRow.of_kind Kind.noConfusion
theorem TableRow.ora (o : Source) : TableRow.Statement (.ora o) := TableRow.of_kind Kind.noConfusion
theorem TableRow.eor (o : Source) : TableRow.Statement (.eor o) := TableRow.of_kind Kind.noConfusion
theorem TableRow.bit (m : MemOperand) : TableRow.Statement (.bit m) := TableRow.of_kind Kind.noConfusion
theorem TableRow.cmp (o : Source) : TableRow.Statement (.cmp o) := TableRow.of_kind Kind.noConfusion
theorem TableRow.cpx (o : Source) : TableRow.Statement (.cpx o) := TableRow.of_kind Kind.noConfusion
theorem TableRow.cpy (o : Source) : TableRow.Statement (.cpy o) := TableRow.of_kind Kind.noConfusion
theorem TableRow.inc (m : MemOperand) : TableRow.Statement (.inc m) := TableRow.of_kind Kind.noConfusion
theorem TableRow.dec (m : MemOperand) : TableRow.Statement (.dec m) := TableRow.of_kind Kind.noConfusion
theorem TableRow.inx : TableRow.Statement .inx := TableRow.of_kind Kind.noConfusion
theorem TableRow.iny : TableRow.Statement .iny := TableRow.of_kind Kind.noConfusion
theorem TableRow.dex : TableRow.Statement .dex := TableRow.of_kind Kind.noConfusion
theorem TableRow.dey : TableRow.Statement .dey := TableRow.of_kind Kind.noConfusion
theorem TableRow.asl (p : Place) : TableRow.Statement (.asl p) := TableRow.of_kind Kind.noConfusion
theorem TableRow.lsr (p : Place) : TableRow.Statement (.lsr p) := TableRow.of_kind Kind.noConfusion
theorem TableRow.rol (p : Place) : TableRow.Statement (.rol p) := TableRow.of_kind Kind.noConfusion
theorem TableRow.ror (p : Place) : TableRow.Statement (.ror p) := TableRow.of_kind Kind.noConfusion
theorem TableRow.clc : TableRow.Statement .clc := TableRow.of_kind Kind.noConfusion
theorem TableRow.sec : TableRow.Statement .sec := TableRow.of_kind Kind.noConfusion
theorem TableRow.cli : TableRow.Statement .cli := TableRow.of_kind Kind.noConfusion
theorem TableRow.sei : TableRow.Statement .sei := TableRow.of_kind Kind.noConfusion
theorem TableRow.cld : TableRow.Statement .cld := TableRow.of_kind Kind.noConfusion
theorem TableRow.sed : TableRow.Statement .sed := TableRow.of_kind Kind.noConfusion
theorem TableRow.clv : TableRow.Statement .clv := TableRow.of_kind Kind.noConfusion
theorem TableRow.nop : TableRow.Statement .nop := TableRow.of_kind Kind.noConfusion
theorem TableRow.bcc (d : Byte) : TableRow.Statement (.bcc d) := TableRow.of_kind Kind.noConfusion
theorem TableRow.bcs (d : Byte) : TableRow.Statement (.bcs d) := TableRow.of_kind Kind.noConfusion
theorem TableRow.beq (d : Byte) : TableRow.Statement (.beq d) := TableRow.of_kind Kind.noConfusion
theorem TableRow.bne (d : Byte) : TableRow.Statement (.bne d) := TableRow.of_kind Kind.noConfusion
theorem TableRow.bmi (d : Byte) : TableRow.Statement (.bmi d) := TableRow.of_kind Kind.noConfusion
theorem TableRow.bpl (d : Byte) : TableRow.Statement (.bpl d) := TableRow.of_kind Kind.noConfusion
theorem TableRow.bvc (d : Byte) : TableRow.Statement (.bvc d) := TableRow.of_kind Kind.noConfusion
theorem TableRow.bvs (d : Byte) : TableRow.Statement (.bvs d) := TableRow.of_kind Kind.noConfusion
theorem TableRow.jmp (j : JumpOperand) : TableRow.Statement (.jmp j) := TableRow.of_kind Kind.noConfusion
theorem TableRow.jsr (a : Addr) : TableRow.Statement (.jsr a) := TableRow.of_kind Kind.noConfusion
theorem TableRow.rts : TableRow.Statement .rts := TableRow.of_kind Kind.noConfusion
theorem TableRow.pha : TableRow.Statement .pha := TableRow.of_kind Kind.noConfusion
theorem TableRow.php : TableRow.Statement .php := TableRow.of_kind Kind.noConfusion
theorem TableRow.pla : TableRow.Statement .pla := TableRow.of_kind Kind.noConfusion
theorem TableRow.plp : TableRow.Statement .plp := TableRow.of_kind Kind.noConfusion
theorem TableRow.brk : TableRow.Statement .brk := TableRow.of_kind Kind.noConfusion
theorem TableRow.rti : TableRow.Statement .rti := TableRow.of_kind Kind.noConfusion
theorem TableRow.undefined (opcode : Byte) : TableRow.Statement (.undefined opcode) := fun hw =>
  undefined_decodes opcode (by
    simpa [Instr.wf, Instr.modeAllowed, Instr.byteUndefined, Instr.kind, Instr.mode, Kind.modes] using hw)

end Sys2Proof.Laws
end

