-- ==== Sys2Proof/Laws/Step.lean ====
section
/-! SUPPORT. The fetch, the host's turn and the tick, said once. -/

namespace Sys2Proof.Machine.Laws

/-! ## The fetch -/

theorem afterFetch_succ (s : State) (k : Nat) : s.afterFetch (k + 1) = (s.afterFetch k).fetchByte.2 := rfl

theorem fetchByte_fst_afterFetch (s : State) (k : Nat) :
    (s.afterFetch k).fetchByte.1 = (s.afterFetch k).answer (s.afterFetch k).pc := rfl

theorem busFrame_afterFetch (s : State) (k : Nat) : ∃ new, BusFrame s (s.afterFetch k) new ∧ new.length = k := by
  induction k with
  | zero => exact ⟨[], busFrame_refl ⟨rfl, rfl, rfl, rfl, rfl, rfl, rfl⟩ rfl rfl, rfl⟩
  | succ k ih =>
    obtain ⟨new, h, hl⟩ := ih
    exact ⟨_, busFrame_core (busFrame_trans h (busFrame_read (s.afterFetch k) (s.afterFetch k).pc))
      ⟨rfl, rfl, rfl, rfl, rfl, rfl, rfl⟩ rfl rfl, by rw [List.length_append, hl]; rfl⟩

@[simp] theorem afterFetch_a (s : State) (k : Nat) : (s.afterFetch k).a = s.a := by
  induction k <;> simp_all [afterFetch_succ, State.afterFetch.eq_1]
@[simp] theorem afterFetch_latency (s : State) (k : Nat) : (s.afterFetch k).latency = s.latency := by
  induction k <;> simp_all [afterFetch_succ, State.afterFetch.eq_1]
@[simp] theorem afterFetch_flags (s : State) (k : Nat) : (s.afterFetch k).flags = s.flags := by
  induction k <;> simp_all [afterFetch_succ, State.afterFetch.eq_1]
@[simp] theorem afterFetch_mem (s : State) (k : Nat) : (s.afterFetch k).mem = s.mem := by
  induction k <;> simp_all [afterFetch_succ, State.afterFetch.eq_1]

/-- The fetch yields a well-formed instruction, and has fetched exactly its bytes. -/
theorem fetch_fits (s : State) : s.fetch.2 = s.afterFetch s.fetch.1.length ∧ s.fetch.1.wf = true := by
  have hf := slotFits s.fetchByte.1
  have he : s.fetch = match slotOf s.fetchByte.1 with
    | .undef => (.undefined s.fetchByte.1, s.afterFetch 1)
    | .one i => (i, s.afterFetch 1)
    | .two f => (f (s.afterFetch 1).fetchByte.1, s.afterFetch 2)
    | .three f => (f (join (s.afterFetch 2).fetchByte.1 (s.afterFetch 1).fetchByte.1), s.afterFetch 3) := rfl
  rcases hf with ⟨h, hm⟩ | ⟨i, h, _, hl, hw, _⟩ | ⟨f, h, hf⟩ | ⟨f, h, hf⟩
  · rw [he, h]
    refine ⟨rfl, ?_⟩
    simpa [Instr.wf, Instr.modeAllowed, Instr.byteUndefined, Instr.kind, Instr.mode, Kind.modes] using hm
  · rw [he, h]
    exact ⟨by rw [hl], hw⟩
  · rw [he, h]
    obtain ⟨_, hl, hw, _⟩ := hf (s.afterFetch 1).fetchByte.1
    exact ⟨by rw [hl], hw⟩
  · rw [he, h]
    obtain ⟨_, hl, hw, _⟩ := hf (join (s.afterFetch 2).fetchByte.1 (s.afterFetch 1).fetchByte.1)
    exact ⟨by rw [hl], hw⟩

/-! ## The host's turn -/

theorem hostTurn_nil {s : State} (h : s.schedule = []) : s.hostTurn =
    { s with accesses := [], busPast := s.busSeen ++ [.turn []] } := by
  simp [State.hostTurn, h]

/-! ## The tick -/

theorem tick_running {s : State} (h : s.latency ≠ 0) : tick s = .next s.countDown := by
  rw [tick, if_neg h]

theorem tick_nmi {s : State} (h : s.latency = 0) (hn : s.nmiTaken = true) :
    tick s = .next (s.sampleLines.takeInterrupt .nmi) := by
  rw [tick, if_pos h, if_pos hn]

theorem tick_irq {s : State} (h : s.latency = 0) (hn : s.nmiTaken = false) (hi : s.irqTaken = true) :
    tick s = .next (s.sampleLines.takeInterrupt .irq) := by
  rw [tick, if_pos h, if_neg (by rw [hn]; decide), if_pos hi]

theorem tick_fetch {s : State} (h : s.latency = 0) (hn : s.nmiTaken = false) (hi : s.irqTaken = false) :
    tick s = exec s.sampleLines.fetch.1 s.sampleLines.fetch.2 := by
  rw [tick, if_pos h, if_neg (by rw [hn]; decide), if_neg (by rw [hi]; decide)]

/-- A tick is one of four things. -/
theorem tick_cases (s : State) :
    (s.latency ≠ 0 ∧ tick s = .next s.countDown) ∨
    (s.latency = 0 ∧ s.nmiTaken = true ∧ tick s = .next (s.sampleLines.takeInterrupt .nmi)) ∨
    (s.latency = 0 ∧ s.nmiTaken = false ∧ s.irqTaken = true ∧ tick s = .next (s.sampleLines.takeInterrupt .irq)) ∨
    (s.latency = 0 ∧ s.nmiTaken = false ∧ s.irqTaken = false ∧
      tick s = exec s.sampleLines.fetch.1 s.sampleLines.fetch.2) := by
  by_cases h : s.latency = 0
  · cases hn : s.nmiTaken with
    | true => exact .inr (.inl ⟨h, rfl, tick_nmi h hn⟩)
    | false =>
      cases hi : s.irqTaken with
      | true => exact .inr (.inr (.inl ⟨h, rfl, rfl, tick_irq h hn hi⟩))
      | false => exact .inr (.inr (.inr ⟨h, rfl, rfl, tick_fetch h hn hi⟩))
  · exact .inl ⟨h, tick_running h⟩

/-- UNDOCUMENTED being none, the meaning of an UNDEFINED byte is the owning system's policy. -/
theorem execUndefined_eq (opcode : Byte) (s : State) : execUndefined opcode s =
    match s.policy with
    | .report => .next { s with result := some (.illegalOpcode opcode (s.pc - 1)) }
    | .halt => .fault (.illegalOpcode opcode (s.pc - 1)) := rfl

/-- The three outcomes of a meaning: a retirement, IllegalOpcode reported, IllegalOpcode as a fault. -/
theorem exec_cases (i : Instr) (s : State) :
    (i.kind ≠ .undefined ∧ Retires i s) ∨
    (∃ opcode, i = .undefined opcode ∧ s.policy = .report ∧
      exec i s = .next { s with result := some (.illegalOpcode opcode (s.pc - 1)) }) ∨
    (∃ opcode, i = .undefined opcode ∧ s.policy = .halt ∧ exec i s = .fault (.illegalOpcode opcode (s.pc - 1))) := by
  by_cases h : i.kind = .undefined
  · cases i with
    | undefined opcode =>
      rcases hp : s.policy with _ | _
      · exact .inr (.inl ⟨opcode, rfl, rfl, by rw [exec, execUndefined_eq, hp]⟩)
      · exact .inr (.inr ⟨opcode, rfl, rfl, by rw [exec, execUndefined_eq, hp]⟩)
    | _ => cases h
  · exact .inl ⟨h, exec_retires i s h⟩

end Sys2Proof.Machine.Laws
end

