-- ==== Sys2Proof/Tests/Slice0.lean ====
section
/-! SUPPORT. The model's own tests: the well-formedness checks, words written out from the tables of 30_encoding.md, vectors
of 95_test_vectors.md (each test names its row), and a witness for the hypotheses of every statement that has some. -/

namespace Sys2Proof.Tests

open Sys2Proof.Machine

/-! ## Well-formedness: one ill-formed term for each check -/

theorem test_wf_refuses_ldx_zpx : (Instr.ldx (.mem (.zpx 0x10))).wf = false := by decide
theorem test_wf_refuses_sta_zpy : (Instr.sta (.zpy 0x10)).wf = false := by decide
theorem test_wf_refuses_bit_absolute_x : (Instr.bit (.abx 0x1234)).wf = false := by decide
theorem test_wf_refuses_undefined_A9 : (Instr.undefined 0xA9).wf = false := by decide
theorem test_wf_accepts_undefined_02 : (Instr.undefined 0x02).wf = true := by decide

/-! ## Decoding: the rows of R86 and R87, operand 0x9C or 0x1234, low byte first (R84) -/

theorem test_decode_loads_stores_transfers_1 :
    decodeTableWord 16 0x9CA1 = some (.lda (.mem (.izx 0x9C))) ∧
    decodeTableWord 16 0x9CA5 = some (.lda (.mem (.zp 0x9C))) ∧
    decodeTableWord 16 0x9CA9 = some (.lda (.imm 0x9C)) ∧
    decodeTableWord 24 0x1234AD = some (.lda (.mem (.abs 0x1234))) ∧
    decodeTableWord 16 0x9CB1 = some (.lda (.mem (.izy 0x9C))) ∧
    decodeTableWord 16 0x9CB5 = some (.lda (.mem (.zpx 0x9C))) ∧
    decodeTableWord 24 0x1234B9 = some (.lda (.mem (.aby 0x1234))) ∧
    decodeTableWord 24 0x1234BD = some (.lda (.mem (.abx 0x1234))) ∧
    decodeTableWord 16 0x9CA2 = some (.ldx (.imm 0x9C)) ∧
    decodeTableWord 16 0x9CA6 = some (.ldx (.mem (.zp 0x9C))) ∧
    decodeTableWord 24 0x1234AE = some (.ldx (.mem (.abs 0x1234))) ∧
    decodeTableWord 16 0x9CB6 = some (.ldx (.mem (.zpy 0x9C))) ∧
    decodeTableWord 24 0x1234BE = some (.ldx (.mem (.aby 0x1234))) ∧
    decodeTableWord 16 0x9CA0 = some (.ldy (.imm 0x9C)) ∧
    decodeTableWord 16 0x9CA4 = some (.ldy (.mem (.zp 0x9C))) ∧
    decodeTableWord 24 0x1234AC = some (.ldy (.mem (.abs 0x1234))) ∧
    decodeTableWord 16 0x9CB4 = some (.ldy (.mem (.zpx 0x9C))) ∧
    decodeTableWord 24 0x1234BC = some (.ldy (.mem (.abx 0x1234))) ∧
    decodeTableWord 16 0x9C81 = some (.sta (.izx 0x9C)) ∧
    decodeTableWord 16 0x9C85 = some (.sta (.zp 0x9C)) := by
  decide

theorem test_decode_loads_stores_transfers_2 :
    decodeTableWord 24 0x12348D = some (.sta (.abs 0x1234)) ∧
    decodeTableWord 16 0x9C91 = some (.sta (.izy 0x9C)) ∧
    decodeTableWord 16 0x9C95 = some (.sta (.zpx 0x9C)) ∧
    decodeTableWord 24 0x123499 = some (.sta (.aby 0x1234)) ∧
    decodeTableWord 24 0x12349D = some (.sta (.abx 0x1234)) ∧
    decodeTableWord 16 0x9C86 = some (.stx (.zp 0x9C)) ∧
    decodeTableWord 24 0x12348E = some (.stx (.abs 0x1234)) ∧
    decodeTableWord 16 0x9C96 = some (.stx (.zpy 0x9C)) ∧
    decodeTableWord 16 0x9C84 = some (.sty (.zp 0x9C)) ∧
    decodeTableWord 24 0x12348C = some (.sty (.abs 0x1234)) ∧
    decodeTableWord 16 0x9C94 = some (.sty (.zpx 0x9C)) ∧
    decodeTableWord 8 0xAA = some .tax ∧
    decodeTableWord 8 0xA8 = some .tay ∧
    decodeTableWord 8 0x8A = some .txa ∧
    decodeTableWord 8 0x98 = some .tya ∧
    decodeTableWord 8 0xBA = some .tsx ∧
    decodeTableWord 8 0x9A = some .txs := by
  decide

theorem test_decode_arithmetic :
    decodeTableWord 16 0x9C61 = some (.adc (.mem (.izx 0x9C))) ∧
    decodeTableWord 16 0x9C65 = some (.adc (.mem (.zp 0x9C))) ∧
    decodeTableWord 16 0x9C69 = some (.adc (.imm 0x9C)) ∧
    decodeTableWord 24 0x12346D = some (.adc (.mem (.abs 0x1234))) ∧
    decodeTableWord 16 0x9C71 = some (.adc (.mem (.izy 0x9C))) ∧
    decodeTableWord 16 0x9C75 = some (.adc (.mem (.zpx 0x9C))) ∧
    decodeTableWord 24 0x123479 = some (.adc (.mem (.aby 0x1234))) ∧
    decodeTableWord 24 0x12347D = some (.adc (.mem (.abx 0x1234))) ∧
    decodeTableWord 16 0x9CE1 = some (.sbc (.mem (.izx 0x9C))) ∧
    decodeTableWord 16 0x9CE5 = some (.sbc (.mem (.zp 0x9C))) ∧
    decodeTableWord 16 0x9CE9 = some (.sbc (.imm 0x9C)) ∧
    decodeTableWord 24 0x1234ED = some (.sbc (.mem (.abs 0x1234))) ∧
    decodeTableWord 16 0x9CF1 = some (.sbc (.mem (.izy 0x9C))) ∧
    decodeTableWord 16 0x9CF5 = some (.sbc (.mem (.zpx 0x9C))) ∧
    decodeTableWord 24 0x1234F9 = some (.sbc (.mem (.aby 0x1234))) ∧
    decodeTableWord 24 0x1234FD = some (.sbc (.mem (.abx 0x1234))) := by
  decide

theorem test_decode_logic_1 :
    decodeTableWord 16 0x9C21 = some (.and (.mem (.izx 0x9C))) ∧
    decodeTableWord 16 0x9C25 = some (.and (.mem (.zp 0x9C))) ∧
    decodeTableWord 16 0x9C29 = some (.and (.imm 0x9C)) ∧
    decodeTableWord 24 0x12342D = some (.and (.mem (.abs 0x1234))) ∧
    decodeTableWord 16 0x9C31 = some (.and (.mem (.izy 0x9C))) ∧
    decodeTableWord 16 0x9C35 = some (.and (.mem (.zpx 0x9C))) ∧
    decodeTableWord 24 0x123439 = some (.and (.mem (.aby 0x1234))) ∧
    decodeTableWord 24 0x12343D = some (.and (.mem (.abx 0x1234))) ∧
    decodeTableWord 16 0x9C01 = some (.ora (.mem (.izx 0x9C))) ∧
    decodeTableWord 16 0x9C05 = some (.ora (.mem (.zp 0x9C))) ∧
    decodeTableWord 16 0x9C09 = some (.ora (.imm 0x9C)) ∧
    decodeTableWord 24 0x12340D = some (.ora (.mem (.abs 0x1234))) ∧
    decodeTableWord 16 0x9C11 = some (.ora (.mem (.izy 0x9C))) ∧
    decodeTableWord 16 0x9C15 = some (.ora (.mem (.zpx 0x9C))) ∧
    decodeTableWord 24 0x123419 = some (.ora (.mem (.aby 0x1234))) ∧
    decodeTableWord 24 0x12341D = some (.ora (.mem (.abx 0x1234))) ∧
    decodeTableWord 16 0x9C41 = some (.eor (.mem (.izx 0x9C))) ∧
    decodeTableWord 16 0x9C45 = some (.eor (.mem (.zp 0x9C))) ∧
    decodeTableWord 16 0x9C49 = some (.eor (.imm 0x9C)) ∧
    decodeTableWord 24 0x12344D = some (.eor (.mem (.abs 0x1234))) := by
  decide

theorem test_decode_logic_2 :
    decodeTableWord 16 0x9C51 = some (.eor (.mem (.izy 0x9C))) ∧
    decodeTableWord 16 0x9C55 = some (.eor (.mem (.zpx 0x9C))) ∧
    decodeTableWord 24 0x123459 = some (.eor (.mem (.aby 0x1234))) ∧
    decodeTableWord 24 0x12345D = some (.eor (.mem (.abx 0x1234))) ∧
    decodeTableWord 16 0x9C24 = some (.bit (.zp 0x9C)) ∧
    decodeTableWord 24 0x12342C = some (.bit (.abs 0x1234)) := by
  decide

theorem test_decode_compares :
    decodeTableWord 16 0x9CC1 = some (.cmp (.mem (.izx 0x9C))) ∧
    decodeTableWord 16 0x9CC5 = some (.cmp (.mem (.zp 0x9C))) ∧
    decodeTableWord 16 0x9CC9 = some (.cmp (.imm 0x9C)) ∧
    decodeTableWord 24 0x1234CD = some (.cmp (.mem (.abs 0x1234))) ∧
    decodeTableWord 16 0x9CD1 = some (.cmp (.mem (.izy 0x9C))) ∧
    decodeTableWord 16 0x9CD5 = some (.cmp (.mem (.zpx 0x9C))) ∧
    decodeTableWord 24 0x1234D9 = some (.cmp (.mem (.aby 0x1234))) ∧
    decodeTableWord 24 0x1234DD = some (.cmp (.mem (.abx 0x1234))) ∧
    decodeTableWord 16 0x9CE0 = some (.cpx (.imm 0x9C)) ∧
    decodeTableWord 16 0x9CE4 = some (.cpx (.mem (.zp 0x9C))) ∧
    decodeTableWord 24 0x1234EC = some (.cpx (.mem (.abs 0x1234))) ∧
    decodeTableWord 16 0x9CC0 = some (.cpy (.imm 0x9C)) ∧
    decodeTableWord 16 0x9CC4 = some (.cpy (.mem (.zp 0x9C))) ∧
    decodeTableWord 24 0x1234CC = some (.cpy (.mem (.abs 0x1234))) := by
  decide

theorem test_decode_steps :
    decodeTableWord 16 0x9CE6 = some (.inc (.zp 0x9C)) ∧
    decodeTableWord 24 0x1234EE = some (.inc (.abs 0x1234)) ∧
    decodeTableWord 16 0x9CF6 = some (.inc (.zpx 0x9C)) ∧
    decodeTableWord 24 0x1234FE = some (.inc (.abx 0x1234)) ∧
    decodeTableWord 16 0x9CC6 = some (.dec (.zp 0x9C)) ∧
    decodeTableWord 24 0x1234CE = some (.dec (.abs 0x1234)) ∧
    decodeTableWord 16 0x9CD6 = some (.dec (.zpx 0x9C)) ∧
    decodeTableWord 24 0x1234DE = some (.dec (.abx 0x1234)) ∧
    decodeTableWord 8 0xE8 = some .inx ∧
    decodeTableWord 8 0xC8 = some .iny ∧
    decodeTableWord 8 0xCA = some .dex ∧
    decodeTableWord 8 0x88 = some .dey := by
  decide

theorem test_decode_shifts :
    decodeTableWord 16 0x9C06 = some (.asl (.mem (.zp 0x9C))) ∧
    decodeTableWord 8 0x0A = some (.asl .acc) ∧
    decodeTableWord 24 0x12340E = some (.asl (.mem (.abs 0x1234))) ∧
    decodeTableWord 16 0x9C16 = some (.asl (.mem (.zpx 0x9C))) ∧
    decodeTableWord 24 0x12341E = some (.asl (.mem (.abx 0x1234))) ∧
    decodeTableWord 16 0x9C46 = some (.lsr (.mem (.zp 0x9C))) ∧
    decodeTableWord 8 0x4A = some (.lsr .acc) ∧
    decodeTableWord 24 0x12344E = some (.lsr (.mem (.abs 0x1234))) ∧
    decodeTableWord 16 0x9C56 = some (.lsr (.mem (.zpx 0x9C))) ∧
    decodeTableWord 24 0x12345E = some (.lsr (.mem (.abx 0x1234))) ∧
    decodeTableWord 16 0x9C26 = some (.rol (.mem (.zp 0x9C))) ∧
    decodeTableWord 8 0x2A = some (.rol .acc) ∧
    decodeTableWord 24 0x12342E = some (.rol (.mem (.abs 0x1234))) ∧
    decodeTableWord 16 0x9C36 = some (.rol (.mem (.zpx 0x9C))) ∧
    decodeTableWord 24 0x12343E = some (.rol (.mem (.abx 0x1234))) ∧
    decodeTableWord 16 0x9C66 = some (.ror (.mem (.zp 0x9C))) ∧
    decodeTableWord 8 0x6A = some (.ror .acc) ∧
    decodeTableWord 24 0x12346E = some (.ror (.mem (.abs 0x1234))) ∧
    decodeTableWord 16 0x9C76 = some (.ror (.mem (.zpx 0x9C))) ∧
    decodeTableWord 24 0x12347E = some (.ror (.mem (.abx 0x1234))) := by
  decide

theorem test_decode_flags :
    decodeTableWord 8 0x18 = some .clc ∧
    decodeTableWord 8 0x38 = some .sec ∧
    decodeTableWord 8 0x58 = some .cli ∧
    decodeTableWord 8 0x78 = some .sei ∧
    decodeTableWord 8 0xD8 = some .cld ∧
    decodeTableWord 8 0xF8 = some .sed ∧
    decodeTableWord 8 0xB8 = some .clv ∧
    decodeTableWord 8 0xEA = some .nop := by
  decide

theorem test_decode_branches_jumps :
    decodeTableWord 16 0x9C90 = some (.bcc 0x9C) ∧
    decodeTableWord 16 0x9CB0 = some (.bcs 0x9C) ∧
    decodeTableWord 16 0x9CF0 = some (.beq 0x9C) ∧
    decodeTableWord 16 0x9CD0 = some (.bne 0x9C) ∧
    decodeTableWord 16 0x9C30 = some (.bmi 0x9C) ∧
    decodeTableWord 16 0x9C10 = some (.bpl 0x9C) ∧
    decodeTableWord 16 0x9C50 = some (.bvc 0x9C) ∧
    decodeTableWord 16 0x9C70 = some (.bvs 0x9C) ∧
    decodeTableWord 24 0x12344C = some (.jmp (.abs 0x1234)) ∧
    decodeTableWord 24 0x12346C = some (.jmp (.ind 0x1234)) ∧
    decodeTableWord 24 0x123420 = some (.jsr 0x1234) ∧
    decodeTableWord 8 0x60 = some .rts := by
  decide

theorem test_decode_stack :
    decodeTableWord 8 0x48 = some .pha ∧
    decodeTableWord 8 0x08 = some .php ∧
    decodeTableWord 8 0x68 = some .pla ∧
    decodeTableWord 8 0x28 = some .plp ∧
    decodeTableWord 8 0x00 = some .brk ∧
    decodeTableWord 8 0x40 = some .rti := by
  decide

theorem test_decode_undefined :
    decodeTableWord 8 0x02 = some (.undefined 0x02) ∧ decodeTableWord 8 0x89 = some (.undefined 0x89) ∧
    decodeTableWord 8 0xFF = some (.undefined 0xFF) := by
  decide

theorem test_decode_asks_for_operands :
    (decode [] matches .error .noOpcode) = true ∧ (decode [0xA9] matches .error (.operandMissing 0xA9)) = true ∧
    (decode [0xAD, 0x34] matches .error (.operandMissing 0xAD)) = true := by
  decide

/-! ## Vectors of 95_test_vectors.md -/

/-- The state of the conventions of 95_test_vectors.md, with the instruction at `pc` and the given bytes of memory. -/
def start (pc : Addr) (cells : List (Nat × Byte)) : State :=
  { State.reset with pc := pc, accesses := [], mem := cells.foldl (fun m c => m.set c.1 c.2) [] }

/-- The next state of an outcome. -/
def next? : Host.Outcome State Fault Refusal → Option State
  | .next t => some t
  | .fault _ => none
  | .refused _ => none

/-- A row's end state and bus column: A, X, Y, SP, PC, P, then the tick's total and its transactions. -/
structure Row where
  a : Byte
  x : Byte
  y : Byte
  sp : Byte
  pc : Addr
  p : Byte
  total : Nat
  bus : List BusAccess
  deriving DecidableEq, Repr

/-- What a tick reads as in the columns of the vectors; an IllegalOpcode counts as total 0. -/
def rowOf (s : State) : Option Row :=
  (next? (step s)).map fun t =>
    { a := t.a, x := t.x, y := t.y, sp := t.sp, pc := t.pc, p := t.flags.statusByte t.flags.b,
      total := match t.result with
        | some (.executed _ _ total) => total
        | some (.interrupt _ total) => total
        | some (.counted _) => 1
        | some (.illegalOpcode _ _) => 0
        | none => 0
      bus := t.accesses }

/-- LDA #$00, row L1. -/
theorem test_lda_L1 :
    rowOf { start 0x0600 [(0x0600, 0xA9), (0x0601, 0x00)] with a := 0x55, flags := Flags.ofStatus 0x6D } =
      some ⟨0x00, 0x00, 0x00, 0xFD, 0x0602, 0x6F, 2,
        [.read 0x0600 0xA9, .read 0x0601 0x00]⟩ := by
  decide

/-- LDA ($20),Y, row M12. -/
theorem test_lda_M12 :
    rowOf { start 0x0600 [(0x0600, 0xB1), (0x0601, 0x20), (0x0020, 0xF8), (0x0021, 0x02), (0x0308, 0x7E)] with y := 0x10 } =
      some ⟨0x7E, 0x00, 0x10, 0xFD, 0x0602, 0x24, 6,
        [.read 0x0600 0xB1, .read 0x0601 0x20, .read 0x0020 0xF8, .read 0x0021 0x02, .read 0x0308 0x7E]⟩ := by
  decide

/-- LDX $FF,Y, row M4. -/
theorem test_ldx_M4 :
    rowOf { start 0x0600 [(0x0600, 0xB6), (0x0601, 0xFF), (0x0000, 0x5A)] with y := 0x01 } =
      some ⟨0x00, 0x5A, 0x01, 0xFD, 0x0602, 0x24, 4,
        [.read 0x0600 0xB6, .read 0x0601 0xFF, .read 0x0000 0x5A]⟩ := by
  decide

/-- LDY #$00, row L4. -/
theorem test_ldy_L4 :
    rowOf { start 0x0600 [(0x0600, 0xA0), (0x0601, 0x00)] with y := 0x05 } =
      some ⟨0x00, 0x00, 0x00, 0xFD, 0x0602, 0x26, 2,
        [.read 0x0600 0xA0, .read 0x0601 0x00]⟩ := by
  decide

/-- STA $12FF,X, row M9. -/
theorem test_sta_M9 :
    rowOf { start 0x0600 [(0x0600, 0x9D), (0x0601, 0xFF), (0x0602, 0x12)] with x := 0x01, a := 0x55 } =
      some ⟨0x55, 0x01, 0x00, 0xFD, 0x0603, 0x24, 5,
        [.read 0x0600 0x9D, .read 0x0601 0xFF, .read 0x0602 0x12, .write 0x1300 0x55]⟩ := by
  decide

/-- STX $10,Y, row L6. -/
theorem test_stx_L6 :
    rowOf { start 0x0600 [(0x0600, 0x96), (0x0601, 0x10)] with x := 0x07, y := 0x02 } =
      some ⟨0x00, 0x07, 0x02, 0xFD, 0x0602, 0x24, 4,
        [.read 0x0600 0x96, .read 0x0601 0x10, .write 0x0012 0x07]⟩ := by
  decide

/-- STY $FE,X, row L7. -/
theorem test_sty_L7 :
    rowOf { start 0x0600 [(0x0600, 0x94), (0x0601, 0xFE)] with y := 0x99, x := 0x03 } =
      some ⟨0x00, 0x03, 0x99, 0xFD, 0x0602, 0x24, 4,
        [.read 0x0600 0x94, .read 0x0601 0xFE, .write 0x0001 0x99]⟩ := by
  decide

/-- TAX, row L8. -/
theorem test_tax_L8 :
    rowOf { start 0x0600 [(0x0600, 0xAA)] with a := 0x00, x := 0x33 } =
      some ⟨0x00, 0x00, 0x00, 0xFD, 0x0601, 0x26, 2,
        [.read 0x0600 0xAA]⟩ := by
  decide

/-- TAY, row L9. -/
theorem test_tay_L9 :
    rowOf { start 0x0600 [(0x0600, 0xA8)] with a := 0x90 } =
      some ⟨0x90, 0x00, 0x90, 0xFD, 0x0601, 0xA4, 2,
        [.read 0x0600 0xA8]⟩ := by
  decide

/-- TXA, row L10. -/
theorem test_txa_L10 :
    rowOf { start 0x0600 [(0x0600, 0x8A)] with x := 0x7F } =
      some ⟨0x7F, 0x7F, 0x00, 0xFD, 0x0601, 0x24, 2,
        [.read 0x0600 0x8A]⟩ := by
  decide

/-- TYA, row L11. -/
theorem test_tya_L11 :
    rowOf { start 0x0600 [(0x0600, 0x98)] with y := 0xFF } =
      some ⟨0xFF, 0x00, 0xFF, 0xFD, 0x0601, 0xA4, 2,
        [.read 0x0600 0x98]⟩ := by
  decide

/-- TSX, row L12. -/
theorem test_tsx_L12 :
    rowOf (start 0x0600 [(0x0600, 0xBA)]) =
      some ⟨0x00, 0xFD, 0x00, 0xFD, 0x0601, 0xA4, 2,
        [.read 0x0600 0xBA]⟩ := by
  decide

/-- TXS, row L14. -/
theorem test_txs_L14 :
    rowOf { start 0x0600 [(0x0600, 0x9A)] with x := 0xFF, flags := Flags.ofStatus 0x26 } =
      some ⟨0x00, 0xFF, 0x00, 0xFF, 0x0601, 0x26, 2,
        [.read 0x0600 0x9A]⟩ := by
  decide

/-- ADC #$00, row A4. -/
theorem test_adc_A4 :
    rowOf { start 0x0600 [(0x0600, 0x69), (0x0601, 0x00)] with a := 0x7F, flags := Flags.ofStatus 0x25 } =
      some ⟨0x80, 0x00, 0x00, 0xFD, 0x0602, 0xE4, 2,
        [.read 0x0600 0x69, .read 0x0601 0x00]⟩ := by
  decide

/-- ADC #$01, row A8. -/
theorem test_adc_A8 :
    rowOf { start 0x0600 [(0x0600, 0x69), (0x0601, 0x01)] with a := 0x09, flags := Flags.ofStatus 0x2C } =
      some ⟨0x0A, 0x00, 0x00, 0xFD, 0x0602, 0x2C, 2,
        [.read 0x0600 0x69, .read 0x0601 0x01]⟩ := by
  decide

/-- SBC #$B0, row A13. -/
theorem test_sbc_A13 :
    rowOf { start 0x0600 [(0x0600, 0xE9), (0x0601, 0xB0)] with a := 0x50, flags := Flags.ofStatus 0x25 } =
      some ⟨0xA0, 0x00, 0x00, 0xFD, 0x0602, 0xE4, 2,
        [.read 0x0600 0xE9, .read 0x0601 0xB0]⟩ := by
  decide

/-- SBC #$03, row A14. -/
theorem test_sbc_A14 :
    rowOf { start 0x0600 [(0x0600, 0xE9), (0x0601, 0x03)] with a := 0x05, flags := Flags.ofStatus 0x24 } =
      some ⟨0x01, 0x00, 0x00, 0xFD, 0x0602, 0x25, 2,
        [.read 0x0600 0xE9, .read 0x0601 0x03]⟩ := by
  decide

/-- AND #$0F, row A18. -/
theorem test_and_A18 :
    rowOf { start 0x0600 [(0x0600, 0x29), (0x0601, 0x0F)] with a := 0xF0, flags := Flags.ofStatus 0x65 } =
      some ⟨0x00, 0x00, 0x00, 0xFD, 0x0602, 0x67, 2,
        [.read 0x0600 0x29, .read 0x0601 0x0F]⟩ := by
  decide

/-- ORA #$80, row A19. -/
theorem test_ora_A19 :
    rowOf { start 0x0600 [(0x0600, 0x09), (0x0601, 0x80)] with a := 0x01 } =
      some ⟨0x81, 0x00, 0x00, 0xFD, 0x0602, 0xA4, 2,
        [.read 0x0600 0x09, .read 0x0601 0x80]⟩ := by
  decide

/-- EOR #$FF, row A21. -/
theorem test_eor_A21 :
    rowOf { start 0x0600 [(0x0600, 0x49), (0x0601, 0xFF)] with a := 0x0F } =
      some ⟨0xF0, 0x00, 0x00, 0xFD, 0x0602, 0xA4, 2,
        [.read 0x0600 0x49, .read 0x0601 0xFF]⟩ := by
  decide

/-- BIT $0200, row A24. -/
theorem test_bit_A24 :
    rowOf { start 0x0600 [(0x0600, 0x2C), (0x0601, 0x00), (0x0602, 0x02), (0x0200, 0x3F)] with a := 0xFF, flags := Flags.ofStatus 0xE4 } =
      some ⟨0xFF, 0x00, 0x00, 0xFD, 0x0603, 0x24, 4,
        [.read 0x0600 0x2C, .read 0x0601 0x00, .read 0x0602 0x02, .read 0x0200 0x3F]⟩ := by
  decide

/-- CMP #$01, row A27. -/
theorem test_cmp_A27 :
    rowOf { start 0x0600 [(0x0600, 0xC9), (0x0601, 0x01)] with a := 0x80, flags := Flags.ofStatus 0x64 } =
      some ⟨0x80, 0x00, 0x00, 0xFD, 0x0602, 0x65, 2,
        [.read 0x0600 0xC9, .read 0x0601 0x01]⟩ := by
  decide

/-- CPX #$05, row A30. -/
theorem test_cpx_A30 :
    rowOf { start 0x0600 [(0x0600, 0xE0), (0x0601, 0x05)] with x := 0x05 } =
      some ⟨0x00, 0x05, 0x00, 0xFD, 0x0602, 0x27, 2,
        [.read 0x0600 0xE0, .read 0x0601 0x05]⟩ := by
  decide

/-- CPY #$10, row A31. -/
theorem test_cpy_A31 :
    rowOf { start 0x0600 [(0x0600, 0xC0), (0x0601, 0x10)] with y := 0x0F } =
      some ⟨0x00, 0x00, 0x0F, 0xFD, 0x0602, 0xA4, 2,
        [.read 0x0600 0xC0, .read 0x0601 0x10]⟩ := by
  decide

/-- INC $12FF,X, row M19. -/
theorem test_inc_M19 :
    rowOf { start 0x0600 [(0x0600, 0xFE), (0x0601, 0xFF), (0x0602, 0x12), (0x1300, 0xFF)] with x := 0x01 } =
      some ⟨0x00, 0x01, 0x00, 0xFD, 0x0603, 0x26, 7,
        [.read 0x0600 0xFE, .read 0x0601 0xFF, .read 0x0602 0x12, .read 0x1300 0xFF, .write 0x1300 0x00]⟩ := by
  decide

/-- DEC $0200, row A35. -/
theorem test_dec_A35 :
    rowOf (start 0x0600 [(0x0600, 0xCE), (0x0601, 0x00), (0x0602, 0x02), (0x0200, 0x00)]) =
      some ⟨0x00, 0x00, 0x00, 0xFD, 0x0603, 0xA4, 6,
        [.read 0x0600 0xCE, .read 0x0601 0x00, .read 0x0602 0x02, .read 0x0200 0x00, .write 0x0200 0xFF]⟩ := by
  decide

/-- INX, row A36. -/
theorem test_inx_A36 :
    rowOf { start 0x0600 [(0x0600, 0xE8)] with x := 0xFF } =
      some ⟨0x00, 0x00, 0x00, 0xFD, 0x0601, 0x26, 2,
        [.read 0x0600 0xE8]⟩ := by
  decide

/-- INY, row A37. -/
theorem test_iny_A37 :
    rowOf { start 0x0600 [(0x0600, 0xC8)] with y := 0x7F } =
      some ⟨0x00, 0x00, 0x80, 0xFD, 0x0601, 0xA4, 2,
        [.read 0x0600 0xC8]⟩ := by
  decide

/-- DEX, row A38. -/
theorem test_dex_A38 :
    rowOf { start 0x0600 [(0x0600, 0xCA)] with x := 0x00 } =
      some ⟨0x00, 0xFF, 0x00, 0xFD, 0x0601, 0xA4, 2,
        [.read 0x0600 0xCA]⟩ := by
  decide

/-- DEY, row A39. -/
theorem test_dey_A39 :
    rowOf { start 0x0600 [(0x0600, 0x88)] with y := 0x01 } =
      some ⟨0x00, 0x00, 0x00, 0xFD, 0x0601, 0x26, 2,
        [.read 0x0600 0x88]⟩ := by
  decide

/-- ASL A, row H2. -/
theorem test_asl_H2 :
    rowOf { start 0x0600 [(0x0600, 0x0A)] with a := 0x41, flags := Flags.ofStatus 0x25 } =
      some ⟨0x82, 0x00, 0x00, 0xFD, 0x0601, 0xA4, 2,
        [.read 0x0600 0x0A]⟩ := by
  decide

/-- ASL $10, row H3. -/
theorem test_asl_H3 :
    rowOf (start 0x0600 [(0x0600, 0x06), (0x0601, 0x10), (0x0010, 0xC0)]) =
      some ⟨0x00, 0x00, 0x00, 0xFD, 0x0602, 0xA5, 5,
        [.read 0x0600 0x06, .read 0x0601 0x10, .read 0x0010 0xC0, .write 0x0010 0x80]⟩ := by
  decide

/-- LSR $0200, row H5. -/
theorem test_lsr_H5 :
    rowOf { start 0x0600 [(0x0600, 0x4E), (0x0601, 0x00), (0x0602, 0x02), (0x0200, 0xFE)] with flags := Flags.ofStatus 0x25 } =
      some ⟨0x00, 0x00, 0x00, 0xFD, 0x0603, 0x24, 6,
        [.read 0x0600 0x4E, .read 0x0601 0x00, .read 0x0602 0x02, .read 0x0200 0xFE, .write 0x0200 0x7F]⟩ := by
  decide

/-- ROL $10,X, row H8. -/
theorem test_rol_H8 :
    rowOf { start 0x0600 [(0x0600, 0x36), (0x0601, 0x10), (0x0011, 0x7F)] with x := 0x01, flags := Flags.ofStatus 0x25 } =
      some ⟨0x00, 0x01, 0x00, 0xFD, 0x0602, 0xA4, 6,
        [.read 0x0600 0x36, .read 0x0601 0x10, .read 0x0011 0x7F, .write 0x0011 0xFF]⟩ := by
  decide

/-- ROR A, row H9. -/
theorem test_ror_H9 :
    rowOf { start 0x0600 [(0x0600, 0x6A)] with a := 0x01, flags := Flags.ofStatus 0x25 } =
      some ⟨0x80, 0x00, 0x00, 0xFD, 0x0601, 0xA5, 2,
        [.read 0x0600 0x6A]⟩ := by
  decide

/-- ROR $02FF,X, row H11. -/
theorem test_ror_H11 :
    rowOf { start 0x0600 [(0x0600, 0x7E), (0x0601, 0xFF), (0x0602, 0x02), (0x0300, 0x02)] with x := 0x01, flags := Flags.ofStatus 0x24 } =
      some ⟨0x00, 0x01, 0x00, 0xFD, 0x0603, 0x24, 7,
        [.read 0x0600 0x7E, .read 0x0601 0xFF, .read 0x0602 0x02, .read 0x0300 0x02, .write 0x0300 0x01]⟩ := by
  decide

/-- CLC, row F1. -/
theorem test_clc_F1 :
    rowOf { start 0x0600 [(0x0600, 0x18)] with flags := Flags.ofStatus 0xFF } =
      some ⟨0x00, 0x00, 0x00, 0xFD, 0x0601, 0xFE, 2,
        [.read 0x0600 0x18]⟩ := by
  decide

/-- SEC, row F2. -/
theorem test_sec_F2 :
    rowOf { start 0x0600 [(0x0600, 0x38)] with flags := Flags.ofStatus 0x20 } =
      some ⟨0x00, 0x00, 0x00, 0xFD, 0x0601, 0x21, 2,
        [.read 0x0600 0x38]⟩ := by
  decide

/-- CLI, row F3. -/
theorem test_cli_F3 :
    rowOf { start 0x0600 [(0x0600, 0x58)] with flags := Flags.ofStatus 0xFF } =
      some ⟨0x00, 0x00, 0x00, 0xFD, 0x0601, 0xFB, 2,
        [.read 0x0600 0x58]⟩ := by
  decide

/-- SEI, row F4. -/
theorem test_sei_F4 :
    rowOf { start 0x0600 [(0x0600, 0x78)] with flags := Flags.ofStatus 0x20 } =
      some ⟨0x00, 0x00, 0x00, 0xFD, 0x0601, 0x24, 2,
        [.read 0x0600 0x78]⟩ := by
  decide

/-- CLD, row F5. -/
theorem test_cld_F5 :
    rowOf { start 0x0600 [(0x0600, 0xD8)] with flags := Flags.ofStatus 0xFF } =
      some ⟨0x00, 0x00, 0x00, 0xFD, 0x0601, 0xF7, 2,
        [.read 0x0600 0xD8]⟩ := by
  decide

/-- SED, row F6. -/
theorem test_sed_F6 :
    rowOf { start 0x0600 [(0x0600, 0xF8)] with flags := Flags.ofStatus 0x20 } =
      some ⟨0x00, 0x00, 0x00, 0xFD, 0x0601, 0x28, 2,
        [.read 0x0600 0xF8]⟩ := by
  decide

/-- CLV, row F7. -/
theorem test_clv_F7 :
    rowOf { start 0x0600 [(0x0600, 0xB8)] with flags := Flags.ofStatus 0xFF } =
      some ⟨0x00, 0x00, 0x00, 0xFD, 0x0601, 0xBF, 2,
        [.read 0x0600 0xB8]⟩ := by
  decide

/-- NOP, row F8. -/
theorem test_nop_F8 :
    rowOf { start 0x0600 [(0x0600, 0xEA)] with flags := Flags.ofStatus 0xFF } =
      some ⟨0x00, 0x00, 0x00, 0xFD, 0x0601, 0xFF, 2,
        [.read 0x0600 0xEA]⟩ := by
  decide

/-- BCC, row B21. -/
theorem test_bcc_B21 :
    rowOf { start 0xFFF0 [(0xFFF0, 0x90), (0xFFF1, 0x10)] with flags := Flags.ofStatus 0x24 } =
      some ⟨0x00, 0x00, 0x00, 0xFD, 0x0002, 0x24, 4,
        [.read 0xFFF0 0x90, .read 0xFFF1 0x10]⟩ := by
  decide

/-- BCS *+6, row B13. -/
theorem test_bcs_B13 :
    rowOf { start 0x0600 [(0x0600, 0xB0), (0x0601, 0x04)] with flags := Flags.ofStatus 0x25 } =
      some ⟨0x00, 0x00, 0x00, 0xFD, 0x0606, 0x25, 3,
        [.read 0x0600 0xB0, .read 0x0601 0x04]⟩ := by
  decide

/-- BEQ *+4, row B3. -/
theorem test_beq_B3 :
    rowOf { start 0x06FD [(0x06FD, 0xF0), (0x06FE, 0x02)] with flags := Flags.ofStatus 0x26 } =
      some ⟨0x00, 0x00, 0x00, 0xFD, 0x0701, 0x26, 4,
        [.read 0x06FD 0xF0, .read 0x06FE 0x02]⟩ := by
  decide

/-- BEQ *, row B19. -/
theorem test_beq_B19 :
    rowOf { start 0x06FE [(0x06FE, 0xF0), (0x06FF, 0xFE)] with flags := Flags.ofStatus 0x26 } =
      some ⟨0x00, 0x00, 0x00, 0xFD, 0x06FE, 0x26, 4,
        [.read 0x06FE 0xF0, .read 0x06FF 0xFE]⟩ := by
  decide

/-- BNE *-3, row B5. -/
theorem test_bne_B5 :
    rowOf { start 0x0605 [(0x0605, 0xD0), (0x0606, 0xFB)] with flags := Flags.ofStatus 0x24 } =
      some ⟨0x00, 0x00, 0x00, 0xFD, 0x0602, 0x24, 3,
        [.read 0x0605 0xD0, .read 0x0606 0xFB]⟩ := by
  decide

/-- BMI *+129, row B9. -/
theorem test_bmi_B9 :
    rowOf { start 0x0600 [(0x0600, 0x30), (0x0601, 0x7F)] with flags := Flags.ofStatus 0xA4 } =
      some ⟨0x00, 0x00, 0x00, 0xFD, 0x0681, 0xA4, 3,
        [.read 0x0600 0x30, .read 0x0601 0x7F]⟩ := by
  decide

/-- BPL *-126, row B7. -/
theorem test_bpl_B7 :
    rowOf { start 0x0600 [(0x0600, 0x10), (0x0601, 0x80)] with flags := Flags.ofStatus 0x24 } =
      some ⟨0x00, 0x00, 0x00, 0xFD, 0x0582, 0x24, 4,
        [.read 0x0600 0x10, .read 0x0601 0x80]⟩ := by
  decide

/-- BVC *+2, row B15. -/
theorem test_bvc_B15 :
    rowOf { start 0x0600 [(0x0600, 0x50), (0x0601, 0x00)] with flags := Flags.ofStatus 0x24 } =
      some ⟨0x00, 0x00, 0x00, 0xFD, 0x0602, 0x24, 3,
        [.read 0x0600 0x50, .read 0x0601 0x00]⟩ := by
  decide

/-- BVS *, row B17. -/
theorem test_bvs_B17 :
    rowOf { start 0x0600 [(0x0600, 0x70), (0x0601, 0xFE)] with flags := Flags.ofStatus 0x64 } =
      some ⟨0x00, 0x00, 0x00, 0xFD, 0x0600, 0x64, 3,
        [.read 0x0600 0x70, .read 0x0601 0xFE]⟩ := by
  decide

/-- JMP ($10FF), row M16. -/
theorem test_jmp_M16 :
    rowOf (start 0x0600 [(0x0600, 0x6C), (0x0601, 0xFF), (0x0602, 0x10), (0x10FF, 0x34), (0x1000, 0x12), (0x1100, 0x56)]) =
      some ⟨0x00, 0x00, 0x00, 0xFD, 0x1234, 0x24, 5,
        [.read 0x0600 0x6C, .read 0x0601 0xFF, .read 0x0602 0x10, .read 0x10FF 0x34, .read 0x1000 0x12]⟩ := by
  decide

/-- JMP $0600, row J1. -/
theorem test_jmp_J1 :
    rowOf (start 0x0600 [(0x0600, 0x4C), (0x0601, 0x00), (0x0602, 0x06)]) =
      some ⟨0x00, 0x00, 0x00, 0xFD, 0x0600, 0x24, 3,
        [.read 0x0600 0x4C, .read 0x0601 0x00, .read 0x0602 0x06]⟩ := by
  decide

/-- JSR $ABCD, row J3. -/
theorem test_jsr_J3 :
    rowOf { start 0x0600 [(0x0600, 0x20), (0x0601, 0xCD), (0x0602, 0xAB)] with sp := 0x00 } =
      some ⟨0x00, 0x00, 0x00, 0xFE, 0xABCD, 0x24, 6,
        [.read 0x0600 0x20, .read 0x0601 0xCD, .read 0x0602 0xAB, .write 0x0100 0x06, .write 0x01FF 0x02]⟩ := by
  decide

/-- RTS, row J5. -/
theorem test_rts_J5 :
    rowOf { start 0x0600 [(0x0600, 0x60), (0x01FF, 0xFF), (0x0100, 0xFF)] with sp := 0xFE } =
      some ⟨0x00, 0x00, 0x00, 0x00, 0x0000, 0x24, 6,
        [.read 0x0600 0x60, .read 0x01FF 0xFF, .read 0x0100 0xFF]⟩ := by
  decide

/-- PHA, row K2. -/
theorem test_pha_K2 :
    rowOf { start 0x0600 [(0x0600, 0x48)] with sp := 0x00, a := 0x42 } =
      some ⟨0x42, 0x00, 0x00, 0xFF, 0x0601, 0x24, 3,
        [.read 0x0600 0x48, .write 0x0100 0x42]⟩ := by
  decide

/-- PHP, row K5. -/
theorem test_php_K5 :
    rowOf { start 0x0600 [(0x0600, 0x08)] with flags := Flags.ofStatus 0xEA } =
      some ⟨0x00, 0x00, 0x00, 0xFC, 0x0601, 0xEA, 3,
        [.read 0x0600 0x08, .write 0x01FD 0xFA]⟩ := by
  decide

/-- PLA, row K7. -/
theorem test_pla_K7 :
    rowOf { start 0x0600 [(0x0600, 0x68), (0x0100, 0x00)] with sp := 0xFF, a := 0x11 } =
      some ⟨0x00, 0x00, 0x00, 0x00, 0x0601, 0x26, 4,
        [.read 0x0600 0x68, .read 0x0100 0x00]⟩ := by
  decide

/-- PLP, row K8. -/
theorem test_plp_K8 :
    rowOf { start 0x0600 [(0x0600, 0x28), (0x01FD, 0xC3)] with sp := 0xFC } =
      some ⟨0x00, 0x00, 0x00, 0xFD, 0x0601, 0xE3, 4,
        [.read 0x0600 0x28, .read 0x01FD 0xC3]⟩ := by
  decide

/-- BRK, row K12. -/
theorem test_brk_K12 :
    rowOf { start 0x0600 [(0x0600, 0x00), (0xFFFE, 0x00), (0xFFFF, 0x80)] with sp := 0x01, flags := Flags.ofStatus 0xA1 } =
      some ⟨0x00, 0x00, 0x00, 0xFE, 0x8000, 0xA5, 7,
        [.read 0x0600 0x00, .write 0x0101 0x06, .write 0x0100 0x02, .write 0x01FF 0xB1, .read 0xFFFE 0x00, .read 0xFFFF 0x80]⟩ := by
  decide

/-- RTI, row K14. -/
theorem test_rti_K14 :
    rowOf { start 0x0600 [(0x0600, 0x40), (0x01FB, 0x34), (0x01FC, 0x02), (0x01FD, 0x06)] with sp := 0xFA } =
      some ⟨0x00, 0x00, 0x00, 0xFD, 0x0602, 0x34, 6,
        [.read 0x0600 0x40, .read 0x01FB 0x34, .read 0x01FC 0x02, .read 0x01FD 0x06]⟩ := by
  decide

/-- (0x02), row X1. -/
theorem test_undefined_X1 :
    rowOf { start 0x0600 [(0x0600, 0x02)] with a := 0x01, x := 0x02, y := 0x03 } =
      some ⟨0x01, 0x02, 0x03, 0xFD, 0x0601, 0x24, 0,
        [.read 0x0600 0x02]⟩ := by
  decide

/-! ## Engine, interrupts, reset, the bus: traces E2, E3, E5, RS1 of 95_test_vectors.md, single ticks -/

/-- Tick 3 of E2: the NMI entry. -/
theorem test_nmi_E2 :
    rowOf { start 0x0601 [(0x0601, 0xEA), (0xFFFA, 0x00), (0xFFFB, 0x90)] with nmi := true } =
      some ⟨0x00, 0x00, 0x00, 0xFA, 0x9000, 0x24, 7,
        [.write 0x01FD 0x06, .write 0x01FC 0x01, .write 0x01FB 0x24, .read 0xFFFA 0x00, .read 0xFFFB 0x90]⟩ := by
  decide

/-- Tick 5 of E3: the IRQ entry, I being 0. -/
theorem test_irq_E3 :
    rowOf { start 0x0602 [(0x0602, 0xEA), (0xFFFE, 0x00), (0xFFFF, 0xA0)] with
        irq := true, flags := Flags.ofStatus 0x20 } =
      some ⟨0x00, 0x00, 0x00, 0xFA, 0xA000, 0x24, 7,
        [.write 0x01FD 0x06, .write 0x01FC 0x02, .write 0x01FB 0x20, .read 0xFFFE 0x00, .read 0xFFFF 0xA0]⟩ := by
  decide

/-- Tick 1 of E3: I masks the IRQ. -/
theorem test_irq_masked_E3 :
    rowOf { start 0x0600 [(0x0600, 0xEA)] with irq := true } =
      some ⟨0x00, 0x00, 0x00, 0xFD, 0x0601, 0x24, 2, [.read 0x0600 0xEA]⟩ := by
  decide

/-- Tick 2 of E5: a Running tick counts and does not sample the line. -/
theorem test_running_E5 :
    (next? (step { start 0x0603 [(0x0603, 0xEA)] with latency := 6, nmi := true })).map
      (fun t => (t.latency, t.nmiPrev, t.accesses, t.result)) = some (5, false, [], some (.counted 5)) := by
  decide

/-- RS1: an arbitrary state. -/
def beforeReset : State :=
  { start 0x9ABC [(0xFFFC, 0x00), (0xFFFD, 0x06)] with
    a := 0x12, x := 0x34, y := 0x56, sp := 0x78, flags := Flags.ofStatus 0xFB, latency := 3, nmiPrev := true }

/-- RS1: reset from it. -/
theorem test_reset_RS1 :
    (fun t : State => (t.a, t.x, t.y, t.sp)) (beforeReset.hostMove .reset) = (0x00, 0x00, 0x00, 0xFD) ∧
    (fun t : State => (t.pc, t.flags.statusByte t.flags.b, t.latency, t.nmiPrev)) (beforeReset.hostMove .reset) =
      (0x0600, 0x24, 0, false) := by
  decide

/-- A host move scheduled for the tick is made before it, and the levels hold. -/
theorem test_schedule_lines :
    ((next? (step { start 0x0600 [(0x0600, 0xEA)] with schedule := [[.lines true false]] })).map
      (fun t => (t.result, t.nmi, t.schedule))) = some (some (.interrupt .nmi 7), true, []) := by
  decide

/-- ROM keeps its byte over a store, which the bus has seen (R52). -/
theorem test_rom_keeps_its_byte :
    (next? (step { start 0x0600 [(0x0600, 0x85), (0x0601, 0x10), (0x0010, 0x77)] with
        a := 0x42, bus := ⟨[⟨0x10, 1, .rom⟩], .ram⟩ })).map (fun t => (t.peek 0x0010, t.accesses.length)) =
      some (0x77, 3) := by
  decide

/-- A read of an oracle is the free value of all that the bus has seen (R52): here the host's turn and the fetch. -/
theorem test_oracle_answers_from_what_the_bus_has_seen :
    (next? (step { start 0x0600 [(0x0600, 0xA5), (0x0601, 0x10)] with bus := ⟨[⟨0x10, 1, .oracle⟩], .ram⟩ })).map
      (fun t => t.a) =
      some (Config.busOracle
        [.turn [], .access (.read 0x0600 0xA5), .access (.read 0x0601 0x10)] 0x0010) := rfl

/-- A store to an oracle is an event that a later read can answer from, and no byte of memory changes (R52). -/
theorem test_oracle_sees_the_write :
    (next? (exec (.sta (.abs 0x2007)) { start 0x0600 [] with a := 0x42, bus := Bus.unknown })).map
      (fun t => (t.answer 0x2007, t.mem)) =
      some (Config.busOracle [.access (.write 0x2007 0x42)] 0x2007, []) := rfl

/-- INT_CYCLES and BASE_CYCLES are parameters: with 5 and with a count of 3 for NOP the latencies are 4 and 2 (R7). -/
theorem test_parameters_are_read :
    ((start 0x0600 []).takeInterruptWith { Config.parameters with intCycles := 5 } .nmi).latency = 4 ∧
      (next? (retireWith { Config.parameters with baseCycles := List.replicate 16 (List.replicate 16 3) } .nop 0x0601
        false 0 (start 0x0601 []))).map (fun t => t.latency) = some 2 := by
  decide

/-- The word that withFetchWord places is the one that the next step fetches (`LDA #$80`). -/
theorem test_withFetchWord_lda :
    (next? (step (State.reset.withFetchWord 8 0x80A9))).map (fun t => (t.a, t.result)) =
        some (0x00, some (.executed 0xA9 0x0000 2)) ∧
      (next? (step (State.reset.withFetchWord 16 0x80A9))).map (fun t => (t.a, t.result)) =
        some (0x80, some (.executed 0xA9 0x0000 2)) := by
  decide

/-! ## Witnesses: a concrete state and operands that meet the hypotheses of each statement -/

/-- A state of the witnesses: RAM everywhere, NOP at PC, interrupts not asserted. -/
def w : State := start 0x0600 [(0x0600, 0xEA)]

/-- Whether an outcome is a next state. -/
def isNext (o : Host.Outcome State Fault Refusal) : Bool := (next? o).isSome

theorem witness_DecodeOfEncode :
    (Instr.jmp (.ind 0xFFFF)).wf = true ∧ (Instr.undefined 0xFF).wf = true ∧ (Instr.lda (.mem (.izy 0xFF))).wf = true := by
  decide

theorem witness_EncodeOfDecode :
    decode [0x6C, 0xFF, 0x10, 0xEA] = .ok (.jmp (.ind 0x10FF), [0xEA]) ∧ decode [0xFF] = .ok (.undefined 0xFF, []) :=
  ⟨rfl, rfl⟩

theorem witness_EncodedLengthIsModeLength :
    (Instr.undefined 0x02).wf = true ∧ (Instr.undefined 0x02).mode ∈ ([.imp, .acc, .undefined] : List Mode) ∧
    (Instr.ror .acc).wf = true ∧ (Instr.ror .acc).mode ∈ ([.imp, .acc, .undefined] : List Mode) ∧
    (Instr.lda (.mem (.izy 0xFF))).wf = true ∧
    (Instr.lda (.mem (.izy 0xFF))).mode ∈ ([.imm, .zp, .zpx, .zpy, .rel, .izx, .izy] : List Mode) ∧
    (Instr.jmp (.ind 0xFFFF)).wf = true ∧
    (Instr.jmp (.ind 0xFFFF)).mode ∈ ([.abs, .abx, .aby, .ind] : List Mode) := by
  decide

theorem witness_WriteThenRead : w.unitAt 0x0000 = .ram ∧ w.unitAt 0xFFFF = .ram := by decide

theorem witness_EqualBytesEqualMemory :
    Memory.wf [(0, 0x01), (65535, 0xFF)] = true ∧
    ∀ a : Nat, a < 65536 → Memory.get [(0, 0x01), (65535, 0xFF)] a = Memory.get [(0, 0x01), (65535, 0xFF)] a :=
  ⟨by decide, fun _ _ => rfl⟩

theorem witness_LoadsSetRegisterAndNZ :
    (Instr.lda (.mem (.aby 0x12FF))).wf = true ∧ (Instr.ldx (.mem (.zpy 0xFF))).wf = true ∧
    (Instr.ldy (.imm 0x00)).wf = true := by
  decide

theorem witness_StoresWriteOneByteAndNoFlag :
    (Instr.sta (.izy 0xFF)).wf = true ∧ (Instr.stx (.zpy 0xFF)).wf = true ∧ (Instr.sty (.abs 0xFFFF)).wf = true := by
  decide

theorem witness_AdcIsExactSum : (Instr.adc (.imm 0x80)).wf = true := by decide

theorem witness_SbcIsExactDifference : (Instr.sbc (.mem (.izx 0xFF))).wf = true := by decide

theorem witness_LogicOnAccumulator :
    (Instr.and (.imm 0x0F)).wf = true ∧ (Instr.ora (.mem (.abx 0xFFFF))).wf = true ∧ (Instr.eor (.mem (.zp 0x00))).wf = true := by
  decide

theorem witness_BitCopiesMemoryBits : (Instr.bit (.zp 0x10)).wf = true ∧ (Instr.bit (.abs 0x0200)).wf = true := by decide

theorem witness_ComparesOrderUnsigned :
    (Instr.cmp (.mem (.izy 0x20))).wf = true ∧ (Instr.cpx (.imm 0x05)).wf = true ∧ (Instr.cpy (.mem (.abs 0xFFFF))).wf = true := by
  decide

theorem witness_IncDecMemoryWraps : (Instr.inc (.abx 0x12FF)).wf = true ∧ (Instr.dec (.zp 0x00)).wf = true := by decide

theorem witness_ShiftsOnMemory :
    (Instr.asl (.mem (.zp 0x10))).wf = true ∧ (Instr.lsr (.mem (.abs 0x0200))).wf = true ∧
    (Instr.rol (.mem (.zpx 0xFF))).wf = true ∧ (Instr.ror (.mem (.abx 0x02FF))).wf = true := by
  decide

theorem witness_CliLetsIrqInAtNextIdleTick :
    ({ w with irq := true } : State).nmi = w.nmiPrev ∧ ({ w with irq := true } : State).irq = true ∧
    isNext (exec .cli { w with irq := true }) = true := by
  decide

/-- Not taken; taken to the last byte of the page of the next instruction; taken to the first byte of the page after. -/
theorem witness_BranchesTakenAndNotTaken :
    w.flags.z = false ∧ (!w.flags.z) = true ∧
    ((0x06FF : Addr).toNat : Int) = ((0x0602 + 0x7E : Addr).toNat + (0x7F : Byte).toInt) % 65536 ∧
    (0x06FF : Addr).toNat / 256 = (0x0680 : Addr).toNat / 256 ∧
    ((0x0700 : Addr).toNat : Int) = ((0x0681 : Addr).toNat + (0x7F : Byte).toInt) % 65536 ∧
    (0x0700 : Addr).toNat / 256 ≠ (0x0681 : Addr).toNat / 256 := by
  decide

theorem witness_UndefinedByteReportsIllegalOpcode :
    w.policy = .report ∧ ({ w with policy := .halt } : State).policy = .halt := by
  decide

theorem witness_RtsUndoesJsr :
    w.unitAt (slotBelow w 0) = .ram ∧ w.unitAt (slotBelow w 1) = .ram ∧ isNext (exec (.jsr 0xABCD) w) = true := by
  decide

theorem witness_RtiUndoesBrk :
    ({ w with sp := 0x01 } : State).unitAt (slotBelow { w with sp := 0x01 } 0) = .ram ∧
    ({ w with sp := 0x01 } : State).unitAt (slotBelow { w with sp := 0x01 } 1) = .ram ∧
    ({ w with sp := 0x01 } : State).unitAt (slotBelow { w with sp := 0x01 } 2) = .ram := by
  decide

/-- The state after the entry is such an `r`. -/
theorem witness_RtiUndoesInterruptEntry :
    w.unitAt (slotBelow w 0) = .ram ∧ w.unitAt (slotBelow w 1) = .ram ∧ w.unitAt (slotBelow w 2) = .ram ∧
    (w.takeInterrupt .nmi).sp = (w.takeInterrupt .nmi).sp := by
  decide

theorem witness_StepRunsDecodedInstruction :
    w.schedule = [] ∧ w.hostTurn.latency = 0 ∧ (w.hostTurn.nmi && !w.hostTurn.nmiPrev) = false ∧
    (w.hostTurn.irq && !w.hostTurn.flags.i) = false ∧
    decode ({ w.hostTurn with nmiPrev := w.hostTurn.nmi } : State).nextBytes = .ok (.nop, [0x00, 0x00]) :=
  ⟨rfl, rfl, rfl, rfl, rfl⟩

theorem witness_RunningTickOnlyCounts :
    ({ w with latency := 1 } : State).latency ≠ 0 ∧ ({ w with latency := 7 } : State).latency ≠ 0 := by
  decide

theorem witness_InstructionOccupiesItsCycles :
    ({ w with latency := 6 } : State).schedule = [] ∧ 1 ≤ 6 ∧ 6 ≤ ({ w with latency := 6 } : State).latency.toNat := by
  decide

/-- The nmi line held since the last sample, an IRQ asserted, I clear. -/
def wIrq : State := { w with nmi := true, nmiPrev := true, irq := true, flags := Flags.ofStatus 0x20 }

/-- An IRQ asserted, I set. -/
def wMasked : State := { w with irq := true }

/-- One state for each of the three choices: the edge, the level with I clear, neither. -/
theorem witness_IdleTickChoosesOne :
    w.latency = 0 ∧
    (({ w with nmi := true } : State).nmi = true ∧ ({ w with nmi := true } : State).nmiPrev = false) ∧
    (wIrq.latency = 0 ∧ ¬ (wIrq.nmi = true ∧ wIrq.nmiPrev = false) ∧ wIrq.irq = true ∧ wIrq.flags.i = false) ∧
    (wMasked.latency = 0 ∧ ¬ (wMasked.nmi = true ∧ wMasked.nmiPrev = false) ∧
      ¬ (wMasked.irq = true ∧ wMasked.flags.i = false)) := by
  decide

theorem witness_NmiSampledOnlyWhenIdle :
    (isNext (tick { w with nmi := true }) = true ∧ w.latency = 0) ∧
    (isNext (tick { w with nmi := true, latency := 3 }) = true ∧ ({ w with latency := 3 } : State).latency ≠ 0) := by
  decide

/-- A state that is not yet reset. -/
def wUnreset : State := { State.reset with a := 0x12, sp := 0x00, latency := 3, nmiPrev := true, accesses := [] }

theorem witness_ResetStateIsResetOverEmptyMemory :
    wUnreset.mem = [] ∧ wUnreset.bus = Bus.flatRam ∧ wUnreset.busPast = [] ∧ wUnreset.nmi = false ∧ wUnreset.irq = false ∧
      wUnreset.schedule = [] ∧ wUnreset.policy = .report ∧ wUnreset.accesses = [] := by
  decide

theorem witness_StepKeepsTheMachineWellFormed : w.Inv ∧ isNext (step w) = true :=
  ⟨⟨by decide, by decide, rfl⟩, by decide⟩

theorem witness_DecimalFlagIsReadOnlyByPushes :
    (Instr.adc (.imm 0x01)).kind ≠ .php ∧ (Instr.adc (.imm 0x01)).kind ≠ .brk := by
  decide

/-- One instruction for each flag, which changes it from the value it has. -/
theorem witness_FlagWritersAreTheListedOnes :
    (next? (exec (.lda (.imm 0x80)) w)).any (fun t => t.flags.n != w.flags.n) = true ∧
    (next? (exec (.lda (.imm 0x00)) w)).any (fun t => t.flags.z != w.flags.z) = true ∧
    (next? (exec (.bit (.abs 0x0600)) w)).any (fun t => t.flags.v != w.flags.v) = true ∧
    (next? (exec .rti { w with mem := [(0x0100, 0x10)], sp := 0xFF })).any (fun t => t.flags.b != w.flags.b) = true ∧
    (next? (exec .sed w)).any (fun t => t.flags.d != w.flags.d) = true ∧
    (next? (exec .cli w)).any (fun t => t.flags.i != w.flags.i) = true ∧
    (next? (exec .sec w)).any (fun t => t.flags.c != w.flags.c) = true := by
  decide

/-- One instruction for each register, which changes it. -/
theorem witness_RegisterWritersAreTheListedOnes :
    (next? (exec (.lda (.imm 0x80)) w)).any (fun t => t.a != w.a) = true ∧
    (next? (exec .dex w)).any (fun t => t.x != w.x) = true ∧
    (next? (exec .dey w)).any (fun t => t.y != w.y) = true ∧
    (next? (exec .txs w)).any (fun t => t.sp != w.sp) = true ∧
    (next? (exec (.bne 0x80) w)).any (fun t => t.pc != w.pc) = true := by
  decide

theorem witness_MemoryChangesOnlyByBusWrites :
    (next? (exec (.sta (.abs 0xFFFF)) { w with a := 0x42 })).any (fun t => t.peek 0xFFFF != w.peek 0xFFFF) = true := by
  decide

/-- BRK is the instruction that makes six transactions. -/
theorem witness_AtMostSixAccessesPerTick :
    (start 0x0600 [(0x0600, 0x00)]).accesses = [] ∧
    (next? (tick (start 0x0600 [(0x0600, 0x00)]))).any (fun t => t.accesses.length == 6) = true := by
  decide

theorem witness_StackInstructionsWriteOnlyTheStackPage :
    Instr.brk.kind ∈ ([.pha, .php, .jsr, .brk] : List Kind) ∧
    (next? (exec .brk { w with sp := 0x01 })).any
      (fun t => (newAccesses w t).contains (.write 0x01FF 0x34)) = true ∧
    (newAccesses w (w.takeInterrupt .irq)).contains (.write 0x01FD 0x06) = true := by
  decide

/-- A read instruction with and without the page cross, and a store. -/
theorem witness_PageCrossCostsOnlyReadInstructions :
    (Instr.lda (.mem (.abx 0x12FF))).kind ≠ .undefined ∧ (Instr.lda (.mem (.abx 0x12FF))).mode ≠ .rel ∧
    (next? (exec (.lda (.mem (.abx 0x12FF))) { w with x := 0x01 })).any (fun t => t.latency == 4) = true ∧
    (next? (exec (.lda (.mem (.abx 0x12FE))) { w with x := 0x01 })).any (fun t => t.latency == 3) = true ∧
    (next? (exec (.sta (.abx 0x12FF)) { w with x := 0x01 })).any (fun t => t.latency == 4) = true ∧
    (Instr.ldx (.mem (.aby 0x12FF))).wf = true ∧ (Instr.adc (.imm 0x01)).wf = true := by
  decide

/-- The two ends of the range. -/
theorem witness_EveryInstructionCostsTwoToSeven :
    Instr.nop.kind ≠ .undefined ∧ Instr.brk.kind ≠ .undefined ∧
    (next? (exec .nop w)).any (fun t => t.latency == 1) = true ∧
    (next? (exec .brk w)).any (fun t => t.latency == 6) = true := by
  decide

theorem witness_NoInstructionStopsTheMachine : w.policy = .report := by decide

end Sys2Proof.Tests
end

section
namespace Sys2Proof.Proofs

open Sys2Proof.Machine.Laws

/-- Settles O12: an immediate operand by its load law; a memory operand loads as `MemOperand.load`, whose value, signal
and state the laws of the resolver's one read give (00_scope.md R10, 40_addressing_resolver.md R112). -/
theorem operandValueIsOneReadAtTheEffectiveAddress : Obligations.OperandValueIsOneReadAtTheEffectiveAddress := by
  constructor
  · exact load_imm
  · intro m s r
    rw [load_mem]
    exact ⟨memLoad_value m s, memLoad_extra m s, memLoad_after m s⟩

end Sys2Proof.Proofs
end

section
/-! PROOFS. The invariant of the machine (10_state.md R33, R39, R41), which each part of a step keeps; the state that
reset leaves (R35 to R39); and the stack page (R22). -/

namespace Sys2Proof.Proofs

open Sys2Proof.Machine Sys2Proof.Machine.Laws

/-! ## The invariant -/

/-- Settles O50: the memory lists nothing, latency is 0 and there is no tick result. -/
theorem resetStateMeetsTheInvariant : Obligations.ResetStateMeetsTheInvariant :=
  ⟨reset_mem_wf, Nat.zero_le 6, rfl⟩

/-- A reset leaves latency 0 and no tick result; the other moves do not touch latency or the result. -/
theorem hostMove_inv {s : State} (h : s.Inv) (m : HostMove) : (s.hostMove m).Inv := by
  obtain ⟨hmem, hlat, hfits⟩ := h
  refine ⟨wf_hostMove hmem m, ?_⟩
  cases m with
  | lines nmi irq => exact ⟨hlat, hfits⟩
  | reset => exact ⟨Nat.zero_le 6, rfl⟩
  | poke a v => exact ⟨hlat, hfits⟩
  | remap bus => exact ⟨hlat, hfits⟩

theorem hostMoves_inv {s : State} (h : s.Inv) (moves : List HostMove) : (moves.foldl State.hostMove s).Inv := by
  induction moves generalizing s with
  | nil => exact h
  | cons m rest ih => exact ih (hostMove_inv h m)

theorem hostTurn_inv {s : State} (h : s.Inv) : s.hostTurn.Inv :=
  hostMoves_inv (s := { s with accesses := [], busPast := _, schedule := s.schedule.tail }) h _

theorem countDown_inv {s : State} (h : s.Inv) (hrun : s.latency ≠ 0) : s.countDown.Inv := by
  obtain ⟨hmem, hlat, -⟩ := h
  have hle : (s.latency - 1).toNat ≤ 6 := by bv_omega
  exact ⟨hmem, hle, rfl⟩

theorem takeInterrupt_inv {s : State} (hmem : s.mem.wf = true) (kind : InterruptKind) :
    (s.takeInterrupt kind).Inv := by
  refine ⟨?_, Nat.le_refl 6, rfl, rfl⟩
  rw [takeInterrupt_mem]
  exact wf_enterException hmem _ _

/-- A retirement with a total of 2 to 7 cycles: latency takes the total minus 1. -/
theorem retire_inv {i : Instr} {next : Addr} {extra : Bool} {branch : Nat} {u t : State} (hmem : u.mem.wf = true)
    (h2 : 2 ≤ totalCycles i.opcode extra branch) (h7 : totalCycles i.opcode extra branch ≤ 7)
    (h : retire i next extra branch u = .next t) : t.Inv := by
  rw [retire_eq] at h
  cases h
  generalize totalCycles i.opcode extra branch = total at h2 h7
  have hlat : (BitVec.ofNat 3 (total - 1)).toNat + 1 = total := by
    rw [BitVec.toNat_ofNat]
    omega
  exact ⟨hmem, show (BitVec.ofNat 3 (total - 1)).toNat ≤ 6 by omega, h2, h7, hlat⟩

/-- A meaning performed in an Idle tick: it retires, or it reports IllegalOpcode and latency stays 0. -/
theorem exec_inv {i : Instr} {s t : State} (hmem : s.mem.wf = true) (hidle : s.latency = 0)
    (h : exec i s = .next t) : t.Inv := by
  rcases exec_cases i s with ⟨hk, extra, branch, u, new, hx, ⟨-, -, -, hwf⟩, -, hb⟩ | ⟨opcode, -, -, hx⟩ |
    ⟨opcode, -, -, hx⟩
  · obtain ⟨h2, h7⟩ := total_bounds hk extra branch hb
    exact retire_inv (hwf hmem) h2 h7 (hx.symm.trans h)
  · cases hx.symm.trans h
    exact ⟨hmem, by simp [hidle], hidle⟩
  · cases hx.symm.trans h

theorem tick_inv {s t : State} (hs : s.Inv) (h : tick s = .next t) : t.Inv := by
  have hmem : s.sampleLines.mem.wf = true := hs.left
  rcases tick_cases s with ⟨hrun, ht⟩ | ⟨-, -, ht⟩ | ⟨-, -, -, ht⟩ | ⟨hidle, -, -, ht⟩
  · cases ht.symm.trans h
    exact countDown_inv hs hrun
  · cases ht.symm.trans h
    exact takeInterrupt_inv hmem .nmi
  · cases ht.symm.trans h
    exact takeInterrupt_inv hmem .irq
  · refine exec_inv ?_ ?_ (ht.symm.trans h)
    · rwa [(fetch_fits _).1, afterFetch_mem]
    · rwa [(fetch_fits _).1, afterFetch_latency]

/-- Settles O49: the host's turn keeps the invariant move by move, and the tick keeps it in each of its four cases. -/
theorem stepKeepsTheMachineWellFormed : Obligations.StepKeepsTheMachineWellFormed :=
  fun _ _ hs h => tick_inv (hostTurn_inv hs) h

/-! ## Reset -/

/-- Settles O48: over FlatRam with no cell the two reads of the vector answer what an unlisted byte reads as. -/
theorem resetStateIsResetOverEmptyMemory : Obligations.ResetStateIsResetOverEmptyMemory := by
  intro s hmem hbus hpast hnmi hirq hschedule hpolicy haccesses
  obtain ⟨a, x, y, sp, pc, flags, latency, nmiPrev, nmi, irq, schedule, policy, mem, bus, busPast, result, accesses⟩ := s
  subst hmem hbus hpast hnmi hirq hschedule hpolicy haccesses
  rfl

/-! ## The stack page -/

/-- The transaction is no write, or a write in page 0x01. -/
def StackPageWrite (e : BusAccess) : Prop := ∀ (a : Addr) (v : Byte), e = .write a v → a.toNat / 256 = 1

theorem stackPageWrite_write (sp v : Byte) : StackPageWrite (.write (stackAddr sp) v) := by
  rintro _ _ ⟨⟩
  have := sp.isLt
  rw [stackAddr_toNat]
  omega

theorem stackPageWrite_read (a : Addr) (v : Byte) : StackPageWrite (.read a v) := fun _ _ h => by cases h

/-- The new transactions are those that were appended. -/
theorem newAccesses_eq {s t : State} {new : List BusAccess} (h : t.accesses = s.accesses ++ new) :
    newAccesses s t = new := by
  rw [newAccesses, h, List.drop_left]

theorem stackPage_of_append {s t : State} {new : List BusAccess} (h : t.accesses = s.accesses ++ new)
    (hnew : ∀ e ∈ new, StackPageWrite e) (a : Addr) (v : Byte) (hw : BusAccess.write a v ∈ newAccesses s t) :
    a.toNat / 256 = 1 :=
  hnew _ (newAccesses_eq h ▸ hw) a v rfl

theorem enterException_writes_stackPage (s : State) (vector : Addr) (bit4 : Bool) :
    ∃ new, (s.enterException vector bit4).accesses = s.accesses ++ new ∧ ∀ e ∈ new, StackPageWrite e := by
  obtain ⟨v1, v2, v3, r1, r2, -, hacc, -, -⟩ := busFrame_enterException s vector bit4
  refine ⟨_, hacc, ?_⟩
  simp only [List.forall_mem_cons, stackPageWrite_write, stackPageWrite_read, true_and]
  exact List.forall_mem_nil _

/-- Retirement sets latency and the result, and leaves the bus alone. -/
theorem retire_accesses {i : Instr} {next : Addr} {extra : Bool} {branch : Nat} {u t : State}
    (h : retire i next extra branch u = .next t) : t.accesses = u.accesses := by
  rw [retire_eq] at h
  cases h
  rfl

theorem exec_writes_stackPage {i : Instr} {s t : State} (hi : i.kind ∈ ([.pha, .php, .jsr, .brk] : List Kind))
    (h : exec i s = .next t) : ∃ new, t.accesses = s.accesses ++ new ∧ ∀ e ∈ new, StackPageWrite e := by
  have hpush (v : Byte) : ∀ e ∈ [BusAccess.write (stackAddr s.sp) v], StackPageWrite e := by
    simp only [List.forall_mem_singleton, stackPageWrite_write]
  cases i with
  | pha => exact ⟨_, (retire_accesses h).trans (push_accesses s _), hpush _⟩
  | php => exact ⟨_, (retire_accesses h).trans (push_accesses s _), hpush _⟩
  | jsr target =>
    refine ⟨_, (retire_accesses h).trans ((pushWord_accesses s _).trans (List.append_assoc _ _ _)), ?_⟩
    exact List.forall_mem_append.2 ⟨hpush _, by simp only [List.forall_mem_singleton, stackPageWrite_write]⟩
  | brk =>
    obtain ⟨new, hacc, hnew⟩ := enterException_writes_stackPage { s with pc := s.pc + 1 } irqVector true
    exact ⟨new, (retire_accesses h).trans hacc, hnew⟩
  | _ => simp [Instr.kind] at hi

/-- Settles O57: every write appended is a push, and a push writes at 0x0100 + SP. -/
theorem stackInstructionsWriteOnlyTheStackPage : Obligations.StackInstructionsWriteOnlyTheStackPage := by
  refine ⟨fun i s t hi h a v hw => ?_, fun kind s a v hw => ?_⟩
  · obtain ⟨new, hacc, hnew⟩ := exec_writes_stackPage hi h
    exact stackPage_of_append hacc hnew a v hw
  · obtain ⟨new, hacc, hnew⟩ := enterException_writes_stackPage s kind.vector false
    exact stackPage_of_append ((takeInterrupt_accesses s kind).trans hacc) hnew a v hw

end Sys2Proof.Proofs
end

section
/-! PROOFS. The stored B (10_state.md R29): a run that starts with another stored B does the same in every other
respect. Each operation of the core commutes with a change of the stored B, and PLP, RTI and reset overwrite it. -/

namespace Sys2Proof.Proofs

open Sys2Proof.Machine Sys2Proof.Machine.Laws

/-! ## The operations -/

theorem resolve_withB (m : MemOperand) (s : State) (b : Bool) :
    m.resolve (s.withB b) = { m.resolve s with after := (m.resolve s).after.withB b } := by
  cases m <;> rfl

theorem memLoad_withB (m : MemOperand) (s : State) (b : Bool) :
    m.load (s.withB b) = { m.load s with after := (m.load s).after.withB b } := by
  rw [MemOperand.load, resolve_withB]
  rfl

theorem load_withB (o : Source) (s : State) (b : Bool) :
    o.load (s.withB b) = { o.load s with after := (o.load s).after.withB b } := by
  cases o with
  | imm v => rfl
  | mem m => exact memLoad_withB m s b

theorem modify_withB (p : Place) (f : Byte → Byte) (s : State) (b : Bool) :
    p.modify f (s.withB b) = { p.modify f s with after := (p.modify f s).after.withB b } := by
  cases p with
  | acc => rfl
  | mem m =>
    rw [Place.modify, resolve_withB]
    rfl

theorem jumpResolve_withB (j : JumpOperand) (s : State) (b : Bool) :
    j.resolve (s.withB b) = ((j.resolve s).1, (j.resolve s).2.withB b) := by
  cases j <;> rfl

theorem fetch_withB (s : State) (b : Bool) : (s.withB b).fetch = (s.fetch.1, s.fetch.2.withB b) := by
  have hop : (s.withB b).fetchByte = (s.fetchByte.1, s.fetchByte.2.withB b) := rfl
  rw [State.fetch, State.fetch, hop]
  dsimp only
  cases slotOf s.fetchByte.1 <;> rfl

/-! ## Outcomes that agree up to the stored B -/

/-- The outcomes are the same, but for the stored B of the next states. -/
def AgreeButB (o p : Host.Outcome State Fault Refusal) : Prop := AgreeUpTo (fun t => t.withB false) o p

theorem agreeButB_refl (o : Host.Outcome State Fault Refusal) : AgreeButB o o := by
  cases o <;> rfl

/-- The same retirement of two states that differ in the stored B only. -/
theorem agreeButB_of_retire {i : Instr} {s u : State} {next : Addr} {extra : Bool} {branch : Nat} {b : Bool}
    (h : exec i s = retire i next extra branch u)
    (hb : exec i (s.withB b) = retire i next extra branch (u.withB b)) :
    AgreeButB (exec i s) (exec i (s.withB b)) := by
  rw [h, hb]
  rfl

theorem agreeButB_branch (i : Instr) (cond : Bool) (d : Byte) (s : State) (b : Bool) :
    AgreeButB (branchOp i cond d s) (branchOp i cond d (s.withB b)) := by
  cases cond <;> rfl

theorem agreeButB_shift (i : Instr) (f : Byte → Bool → Byte × Bool) (p : Place) (s : State) (b : Bool) :
    AgreeButB (shiftOp i f p s) (shiftOp i f p (s.withB b)) := by
  have hmod := modify_withB p (fun v => (f v s.flags.c).1) s b
  have hb : shiftOp i f p (s.withB b) =
      let l := p.modify (fun v => (f v s.flags.c).1) (s.withB b)
      let r := f l.value s.flags.c
      retire i s.pc l.extra 0 { l.after with flags := l.after.flags.setShift r.1 r.2 } := rfl
  rw [hb, hmod]
  rfl

/-! ## The meanings -/

/-- No meaning reads the stored B. -/
theorem exec_withB (i : Instr) (s : State) (b : Bool) : AgreeButB (exec i s) (exec i (s.withB b)) := by
  cases i with
  | lda o => exact agreeButB_of_retire rfl (by rw [exec, execLda, load_withB]; rfl)
  | ldx o => exact agreeButB_of_retire rfl (by rw [exec, execLdx, load_withB]; rfl)
  | ldy o => exact agreeButB_of_retire rfl (by rw [exec, execLdy, load_withB]; rfl)
  | sta m => exact agreeButB_of_retire rfl (by rw [exec, execSta, resolve_withB]; rfl)
  | stx m => exact agreeButB_of_retire rfl (by rw [exec, execStx, resolve_withB]; rfl)
  | sty m => exact agreeButB_of_retire rfl (by rw [exec, execSty, resolve_withB]; rfl)
  | adc o => exact agreeButB_of_retire rfl (by rw [exec, execAdc, load_withB]; rfl)
  | sbc o => exact agreeButB_of_retire rfl (by rw [exec, execSbc, load_withB]; rfl)
  | and o => exact agreeButB_of_retire rfl (by rw [exec, execAnd, load_withB]; rfl)
  | ora o => exact agreeButB_of_retire rfl (by rw [exec, execOra, load_withB]; rfl)
  | eor o => exact agreeButB_of_retire rfl (by rw [exec, execEor, load_withB]; rfl)
  | bit m => exact agreeButB_of_retire rfl (by rw [exec, execBit, memLoad_withB]; rfl)
  | cmp o => exact agreeButB_of_retire rfl (by rw [exec, execCmp, load_withB]; rfl)
  | cpx o => exact agreeButB_of_retire rfl (by rw [exec, execCpx, load_withB]; rfl)
  | cpy o => exact agreeButB_of_retire rfl (by rw [exec, execCpy, load_withB]; rfl)
  | inc m => exact agreeButB_of_retire rfl (by rw [exec, execInc, modify_withB]; rfl)
  | dec m => exact agreeButB_of_retire rfl (by rw [exec, execDec, modify_withB]; rfl)
  | asl p => exact agreeButB_shift _ shiftLeft p s b
  | lsr p => exact agreeButB_shift _ shiftRight p s b
  | rol p => exact agreeButB_shift _ rotateLeft p s b
  | ror p => exact agreeButB_shift _ rotateRight p s b
  | bcc d => exact agreeButB_branch _ (s.flags.c == false) d s b
  | bcs d => exact agreeButB_branch _ (s.flags.c == true) d s b
  | beq d => exact agreeButB_branch _ (s.flags.z == true) d s b
  | bne d => exact agreeButB_branch _ (s.flags.z == false) d s b
  | bmi d => exact agreeButB_branch _ (s.flags.n == true) d s b
  | bpl d => exact agreeButB_branch _ (s.flags.n == false) d s b
  | bvc d => exact agreeButB_branch _ (s.flags.v == false) d s b
  | bvs d => exact agreeButB_branch _ (s.flags.v == true) d s b
  | jmp j => exact agreeButB_of_retire rfl (by rw [exec, execJmp, jumpResolve_withB]; rfl)
  | plp => exact agreeButB_refl (exec .plp s)
  | rti => exact agreeButB_refl (exec .rti s)
  | undefined opcode =>
    rw [exec, exec, execUndefined_eq, execUndefined_eq, show (s.withB b).policy = s.policy from rfl]
    cases s.policy <;> rfl
  -- No operand is resolved: registers, flags, and the stack, where a pushed status byte has its own bit 4 (R27, D14).
  | _ => exact agreeButB_of_retire rfl rfl

/-! ## The step -/

theorem tick_withB (s : State) (b : Bool) : AgreeButB (tick s) (tick (s.withB b)) := by
  rcases tick_cases s with ⟨hrun, ht⟩ | ⟨hidle, hnmi, ht⟩ | ⟨hidle, hnmi, hirq, ht⟩ | ⟨hidle, hnmi, hirq, ht⟩
  · rw [ht, tick_running (s := s.withB b) hrun]
    rfl
  · rw [ht, tick_nmi (s := s.withB b) hidle hnmi]
    rfl
  · rw [ht, tick_irq (s := s.withB b) hidle hnmi hirq]
    rfl
  · rw [ht, tick_fetch (s := s.withB b) hidle hnmi hirq,
      show (s.withB b).sampleLines = s.sampleLines.withB b from rfl, fetch_withB]
    exact exec_withB _ _ b

/-- Reset overwrites the stored B; the other moves keep it. -/
theorem hostMove_withB (s : State) (b : Bool) (m : HostMove) :
    ∃ c, (s.withB b).hostMove m = (s.hostMove m).withB c := by
  cases m with
  | lines nmi irq => exact ⟨b, rfl⟩
  | reset => exact ⟨Config.parameters.resetValues.b, rfl⟩
  | poke a v => exact ⟨b, rfl⟩
  | remap bus => exact ⟨b, rfl⟩

theorem hostMoves_withB (s : State) (b : Bool) (moves : List HostMove) :
    ∃ c, moves.foldl State.hostMove (s.withB b) = (moves.foldl State.hostMove s).withB c := by
  induction moves generalizing s b with
  | nil => exact ⟨b, rfl⟩
  | cons m rest ih =>
    obtain ⟨c, hc⟩ := hostMove_withB s b m
    rw [List.foldl_cons, List.foldl_cons, hc]
    exact ih (s.hostMove m) c

theorem hostTurn_withB (s : State) (b : Bool) : ∃ c, (s.withB b).hostTurn = s.hostTurn.withB c :=
  hostMoves_withB { s with accesses := [], busPast := _, schedule := s.schedule.tail } b _

/-- Settles O51: after the host's turn the two states differ in the stored B at most, and a tick from two such states
has outcomes that do. -/
theorem storedBreakFlagIsUnobservable : Obligations.StoredBreakFlagIsUnobservable := by
  intro s b
  obtain ⟨c, hc⟩ := hostTurn_withB s b
  rw [step, step, hc]
  exact tick_withB s.hostTurn c

end Sys2Proof.Proofs
end

section
/-! PROOFS. Which instruction may change which register and which flag (10_state.md R21 to R30). The table of the writers
is turned round, from an instruction to the cells it may write; every other cell is shown to keep its value. -/

namespace Sys2Proof.Proofs

open Sys2Proof.Machine Sys2Proof.Machine.Laws

/-! ## The cells of the core's state -/

/-- A register or a flag that instructions write. -/
inductive CoreCell where
  | a | x | y | sp | pc
  | n | v | b | d | i | z | c
  deriving DecidableEq

/-- The cell holds in `t` what it holds in `s`. -/
def CoreCell.Same (s t : State) : CoreCell → Prop
  | .a => t.a = s.a
  | .x => t.x = s.x
  | .y => t.y = s.y
  | .sp => t.sp = s.sp
  | .pc => t.pc = s.pc
  | .n => t.flags.n = s.flags.n
  | .v => t.flags.v = s.flags.v
  | .b => t.flags.b = s.flags.b
  | .d => t.flags.d = s.flags.d
  | .i => t.flags.i = s.flags.i
  | .z => t.flags.z = s.flags.z
  | .c => t.flags.c = s.flags.c

/-- The cells that an instruction of a kind may write, by its rule of 41_load_store_transfer.md to
46_stack_system.md. -/
def writtenCells : Kind → List CoreCell
  | .lda | .and | .ora | .eor | .txa | .tya => [.a, .n, .z]
  | .ldx | .tax | .tsx | .inx | .dex => [.x, .n, .z]
  | .ldy | .tay | .iny | .dey => [.y, .n, .z]
  | .adc | .sbc => [.a, .n, .v, .z, .c]
  | .asl | .lsr | .rol | .ror => [.a, .n, .z, .c]
  | .inc | .dec => [.n, .z]
  | .cmp | .cpx | .cpy => [.n, .z, .c]
  | .bit => [.n, .v, .z]
  | .clc | .sec => [.c]
  | .cli | .sei => [.i]
  | .cld | .sed => [.d]
  | .clv => [.v]
  | .txs | .pha | .php => [.sp]
  | .pla => [.a, .sp, .n, .z]
  | .plp => [.sp, .n, .v, .b, .d, .i, .z, .c]
  | .rti => [.sp, .pc, .n, .v, .b, .d, .i, .z, .c]
  | .brk => [.sp, .pc, .i]
  | .jsr | .rts => [.sp, .pc]
  | .jmp | .bcc | .bcs | .beq | .bne | .bmi | .bpl | .bvc | .bvs => [.pc]
  | .sta | .stx | .sty | .nop | .undefined => []

/-! ## What an operation keeps -/

/-- Every cell that is not listed holds in `t` what it holds in `s`. -/
def Keeps (listed : List CoreCell) (s t : State) : Prop := ∀ k : CoreCell, k ∉ listed → k.Same s t

theorem keeps_refl (w : List CoreCell) (s : State) : Keeps w s s := fun k _ => by
  cases k <;> rfl

section
variable {w : List CoreCell} {s t u : State}

theorem Keeps.trans (h : Keeps w s t) (h' : Keeps w t u) : Keeps w s u := fun k hk => by
  have hst := h k hk
  have htu := h' k hk
  cases k <;> exact Eq.trans htu hst

/-- A further operation, which writes listed cells only. -/
theorem Keeps.andThen {new : List CoreCell} (h : Keeps w s t) (hw : new ⊆ w) (h' : Keeps new t u) : Keeps w s u :=
  h.trans fun k hk => h' k fun hn => hk (hw hn)

theorem Keeps.setA (h : Keeps w s t) {r : Byte} (hw : [.a] ⊆ w := by decide) : Keeps w s { t with a := r } :=
  h.andThen hw fun k hk => by cases k <;> simp_all [CoreCell.Same]

theorem Keeps.setX (h : Keeps w s t) {r : Byte} (hw : [.x] ⊆ w := by decide) : Keeps w s { t with x := r } :=
  h.andThen hw fun k hk => by cases k <;> simp_all [CoreCell.Same]

theorem Keeps.setY (h : Keeps w s t) {r : Byte} (hw : [.y] ⊆ w := by decide) : Keeps w s { t with y := r } :=
  h.andThen hw fun k hk => by cases k <;> simp_all [CoreCell.Same]

theorem Keeps.setSp (h : Keeps w s t) {r : Byte} (hw : [.sp] ⊆ w := by decide) : Keeps w s { t with sp := r } :=
  h.andThen hw fun k hk => by cases k <;> simp_all [CoreCell.Same]

theorem Keeps.setPc (h : Keeps w s t) {r : Addr} (hw : [.pc] ⊆ w := by decide) : Keeps w s { t with pc := r } :=
  h.andThen hw fun k hk => by cases k <;> simp_all [CoreCell.Same]

theorem Keeps.setNZ (h : Keeps w s t) {r : Byte} (hw : [.n, .z] ⊆ w := by decide) : Keeps w s (t.setNZ r) :=
  h.andThen hw fun k hk => by cases k <;> simp_all [CoreCell.Same, flagsNZ]

theorem Keeps.setArith (h : Keeps w s t) {r : Byte} {carry overflow : Bool}
    (hw : [.a, .n, .v, .z, .c] ⊆ w := by decide) :
    Keeps w s { t with a := r, flags := t.flags.setArith r carry overflow } :=
  h.andThen hw fun k hk => by cases k <;> simp_all [CoreCell.Same, Flags.setArith]

theorem Keeps.setShift (h : Keeps w s t) {r : Byte} {out : Bool} (hw : [.n, .z, .c] ⊆ w := by decide) :
    Keeps w s { t with flags := t.flags.setShift r out } :=
  h.andThen hw fun k hk => by cases k <;> simp_all [CoreCell.Same, Flags.setShift]

theorem Keeps.setCompare (h : Keeps w s t) {r m : Byte} (hw : [.n, .z, .c] ⊆ w := by decide) :
    Keeps w s { t with flags := t.flags.setCompare r m } :=
  h.andThen hw fun k hk => by cases k <;> simp_all [CoreCell.Same, Flags.setCompare]

theorem Keeps.setBit (h : Keeps w s t) {r m : Byte} (hw : [.n, .v, .z] ⊆ w := by decide) :
    Keeps w s { t with flags := t.flags.setBit r m } :=
  h.andThen hw fun k hk => by cases k <;> simp_all [CoreCell.Same, Flags.setBit]

theorem Keeps.setC (h : Keeps w s t) {r : Bool} (hw : [.c] ⊆ w := by decide) :
    Keeps w s { t with flags := { t.flags with c := r } } :=
  h.andThen hw fun k hk => by cases k <;> simp_all [CoreCell.Same]

theorem Keeps.setI (h : Keeps w s t) {r : Bool} (hw : [.i] ⊆ w := by decide) :
    Keeps w s { t with flags := { t.flags with i := r } } :=
  h.andThen hw fun k hk => by cases k <;> simp_all [CoreCell.Same]

theorem Keeps.setD (h : Keeps w s t) {r : Bool} (hw : [.d] ⊆ w := by decide) :
    Keeps w s { t with flags := { t.flags with d := r } } :=
  h.andThen hw fun k hk => by cases k <;> simp_all [CoreCell.Same]

theorem Keeps.setV (h : Keeps w s t) {r : Bool} (hw : [.v] ⊆ w := by decide) :
    Keeps w s { t with flags := { t.flags with v := r } } :=
  h.andThen hw fun k hk => by cases k <;> simp_all [CoreCell.Same]

theorem Keeps.setFlags (h : Keeps w s t) {f : Flags} (hw : [.n, .v, .b, .d, .i, .z, .c] ⊆ w := by decide) :
    Keeps w s { t with flags := f } :=
  h.andThen hw fun k hk => by cases k <;> simp_all [CoreCell.Same]

theorem Keeps.push (h : Keeps w s t) {r : Byte} (hw : [.sp] ⊆ w := by decide) : Keeps w s (t.push r) :=
  h.andThen hw fun k hk => by cases k <;> simp_all [CoreCell.Same]

theorem Keeps.pop (h : Keeps w s t) (hw : [.sp] ⊆ w := by decide) : Keeps w s t.pop.2 :=
  h.andThen hw fun k hk => by cases k <;> simp_all [CoreCell.Same]

theorem Keeps.read (h : Keeps w s t) {a : Addr} : Keeps w s (t.afterRead a) :=
  h.trans fun k _ => by cases k <;> rfl

theorem Keeps.write (h : Keeps w s t) {a : Addr} {r : Byte} : Keeps w s (t.write a r) :=
  h.trans fun k _ => by cases k <;> rfl

theorem Keeps.enterException (h : Keeps w s t) {vector : Addr} {bit4 : Bool}
    (hw : [.sp, .pc, .i] ⊆ w := by decide) : Keeps w s (t.enterException vector bit4) :=
  h.andThen hw fun k hk => by cases k <;> simp_all [CoreCell.Same]

end

/-! ## Operands -/

theorem keeps_resolve (w : List CoreCell) (m : MemOperand) (s : State) : Keeps w s (m.resolve s).after := fun k _ => by
  cases k <;> simp [CoreCell.Same]

theorem keeps_load (w : List CoreCell) (o : Source) (s : State) : Keeps w s (o.load s).after := fun k _ => by
  cases k <;> simp [CoreCell.Same]

theorem keeps_modify_mem (w : List CoreCell) (m : MemOperand) (f : Byte → Byte) (s : State) :
    Keeps w s ((Place.mem m).modify f s).after :=
  (keeps_load w (.mem m) s).write

theorem keeps_modify {w : List CoreCell} (p : Place) (f : Byte → Byte) (s : State) (hw : [.a] ⊆ w := by decide) :
    Keeps w s (p.modify f s).after := by
  cases p with
  | acc => exact (keeps_refl w s).setA hw
  | mem m => exact keeps_modify_mem w m f s

theorem keeps_jumpResolve (w : List CoreCell) (j : JumpOperand) (s : State) : Keeps w s (j.resolve s).2 := by
  cases j with
  | abs a => exact keeps_refl w s
  | ind p => exact (keeps_refl w s).read.read

/-! ## What an instruction keeps -/

/-- Retirement touches no cell, so that an instruction keeps what the state it retires keeps. -/
theorem Keeps.retire {i : Instr} {w : List CoreCell} {next : Addr} {extra : Bool} {branch : Nat} {s t u : State}
    (h : Keeps w s u) (ht : Machine.retire i next extra branch u = .next t) : Keeps w s t := by
  rw [retire_eq] at ht
  cases ht
  exact h.trans fun k _ => by cases k <;> rfl

theorem keeps_branch {i : Instr} {cond : Bool} {d : Byte} {s t : State} (h : branchOp i cond d s = .next t) :
    Keeps [.pc] s t := by
  cases cond with
  | false => exact (keeps_refl _ s).retire h
  | true => exact (keeps_refl _ s).setPc.retire h

theorem exec_keeps {i : Instr} {s t : State} (h : exec i s = .next t) : Keeps (writtenCells i.kind) s t := by
  have hs (w : List CoreCell) : Keeps w s s := keeps_refl w s
  cases i with
  | lda o | and o | ora o | eor o =>
    exact (((keeps_load [.a, .n, .z] o s).setA).setNZ).retire h
  | ldx o => exact (((keeps_load [.x, .n, .z] o s).setX).setNZ).retire h
  | ldy o => exact (((keeps_load [.y, .n, .z] o s).setY).setNZ).retire h
  | sta m | stx m | sty m => exact ((keeps_resolve [] m s).write).retire h
  | txa | tya => exact ((hs [.a, .n, .z]).setA.setNZ).retire h
  | tax | tsx | inx | dex => exact ((hs [.x, .n, .z]).setX.setNZ).retire h
  | tay | iny | dey => exact ((hs [.y, .n, .z]).setY.setNZ).retire h
  | txs => exact (hs [.sp]).setSp.retire h
  | adc o | sbc o => exact ((keeps_load [.a, .n, .v, .z, .c] o s).setArith).retire h
  | bit m => exact ((keeps_load [.n, .v, .z] (.mem m) s).setBit).retire h
  | cmp o | cpx o | cpy o => exact ((keeps_load [.n, .z, .c] o s).setCompare).retire h
  | inc m | dec m => exact ((keeps_modify_mem [.n, .z] m _ s).setNZ).retire h
  | asl p | lsr p | rol p | ror p => exact ((keeps_modify (w := [.a, .n, .z, .c]) p _ s).setShift).retire h
  | clc | sec => exact (hs [.c]).setC.retire h
  | cli | sei => exact (hs [.i]).setI.retire h
  | cld | sed => exact (hs [.d]).setD.retire h
  | clv => exact (hs [.v]).setV.retire h
  | nop => exact (hs []).retire h
  | bcc d | bcs d | beq d | bne d | bmi d | bpl d | bvc d | bvs d => exact keeps_branch h
  | jmp j => exact (keeps_jumpResolve [.pc] j s).setPc.retire h
  | jsr target => exact (hs [.sp, .pc]).push.push.setPc.retire h
  | rts => exact (hs [.sp, .pc]).pop.pop.setPc.retire h
  | pha | php => exact (hs [.sp]).push.retire h
  | pla => exact (hs [.a, .sp, .n, .z]).pop.setA.setNZ.retire h
  | plp => exact (hs [.sp, .n, .v, .b, .d, .i, .z, .c]).pop.setFlags.retire h
  | brk => exact (hs [.sp, .pc, .i]).setPc.enterException.retire h
  | rti => exact (hs [.sp, .pc, .n, .v, .b, .d, .i, .z, .c]).pop.setFlags.pop.pop.setPc.retire h
  | undefined opcode =>
    rw [exec, execUndefined_eq] at h
    cases hp : s.policy with
    | report =>
      rw [hp] at h
      cases h
      exact fun k _ => by cases k <;> rfl
    | halt =>
      rw [hp] at h
      cases h

/-! ## The writers of the state rules -/

/-- A cell that differs after an instruction is one that its kind writes. -/
theorem writes_of_not_same {i : Instr} {s t : State} (h : exec i s = .next t) {k : CoreCell} (hk : ¬ k.Same s t) :
    k ∈ writtenCells i.kind :=
  Decidable.byContradiction fun hn => hk (exec_keeps h k hn)

/-- A list that holds every kind that writes a cell holds every instruction after which the cell differs. -/
theorem writers_of_table (k : CoreCell) {writers : List Kind} (hw : ∀ kind, k ∈ writtenCells kind → kind ∈ writers)
    {i : Instr} {s t : State} (h : exec i s = .next t) (hk : ¬ k.Same s t) : i.kind ∈ writers :=
  hw i.kind (writes_of_not_same h hk)

/-- Settles O53: the table of the cells that each kind writes, read flag by flag. -/
theorem flagWritersAreTheListedOnes : Obligations.FlagWritersAreTheListedOnes := by
  intro i s t h
  refine ⟨writers_of_table .n ?_ h, writers_of_table .z ?_ h, writers_of_table .v ?_ h, writers_of_table .b ?_ h,
    writers_of_table .d ?_ h, writers_of_table .i ?_ h, writers_of_table .c ?_ h⟩
  all_goals
    intro kind
    cases kind <;> decide

/-- Settles O54: the same table, read register by register. -/
theorem registerWritersAreTheListedOnes : Obligations.RegisterWritersAreTheListedOnes := by
  intro i s t h
  refine ⟨writers_of_table .a ?_ h, writers_of_table .x ?_ h, writers_of_table .y ?_ h, writers_of_table .sp ?_ h,
    writers_of_table .pc ?_ h⟩
  all_goals
    intro kind
    cases kind <;> decide

end Sys2Proof.Proofs
end

section
/-! PROOFS. The memory behind the bus (20_memory.md): one write through the bus, the canonical form, the addresses and
the pointer reads of the memory modes, and the bus transactions of an instruction and of a tick. -/

namespace Sys2Proof.Proofs

open Sys2Proof.Machine Sys2Proof.Machine.Laws

/-! ## Memory -/

/-- Settles O6: RAM answers the byte that holds still there, which is the byte written; the store is the only one. -/
theorem writeThenRead : Obligations.WriteThenRead := by
  intro s a v
  refine ⟨fun hram => ?_, storesOnly_write (storesOnly_refl rfl) rfl List.not_mem_nil rfl, write_accesses s a v,
    ⟨rfl, rfl, rfl, rfl⟩, rfl, rfl, rfl, ⟨rfl, rfl, rfl, rfl, rfl, rfl, rfl⟩⟩
  rw [answer_ram ((write_unitAt s a a v).trans hram), peek_write, if_pos ⟨hram, rfl⟩]

theorem wfFrom_cons_iff {lo a : Nat} {v : Byte} {m : Memory} : Memory.wfFrom lo ((a, v) :: m) = true ↔
    lo ≤ a ∧ a < 65536 ∧ v ≠ Config.unlistedByte ∧ Memory.wfFrom (a + 1) m = true := by
  simp only [Memory.wfFrom, Bool.and_eq_true, decide_eq_true_eq, and_assoc]

theorem get_cons_self (a : Nat) (v : Byte) (m : Memory) : Memory.get ((a, v) :: m) a = v := if_pos rfl

theorem get_cons_of_ne {a b : Nat} (v : Byte) (m : Memory) (h : b ≠ a) : Memory.get ((a, v) :: m) b = m.get b :=
  if_neg h

/-- The first cell is where the canonical form starts. -/
theorem wfFrom_head {lo a : Nat} {v : Byte} {m : Memory} (h : Memory.wfFrom lo ((a, v) :: m) = true) :
    Memory.wfFrom a ((a, v) :: m) = true :=
  wfFrom_cons_iff.2 ⟨le_refl a, (wfFrom_cons_iff.1 h).2⟩

/-- Memory in canonical form from `lo` up lists nothing below `lo`. -/
theorem get_below {lo a : Nat} {m : Memory} (hm : Memory.wfFrom lo m = true) (ha : a < lo) :
    m.get a = Config.unlistedByte := by
  induction m generalizing lo with
  | nil => rfl
  | cons c m ih =>
    obtain ⟨k, v⟩ := c
    obtain ⟨hk, -, -, hm⟩ := wfFrom_cons_iff.1 hm
    rw [get_cons_of_ne v m (by omega)]
    exact ih hm (by omega)

/-- A cell in canonical form shows in what its address reads as, so that no memory which starts above it holds the same
bytes. -/
theorem start_le_of_get_eq {lo start a : Nat} {v : Byte} {m k : Memory}
    (hm : Memory.wfFrom lo ((a, v) :: m) = true) (hk : Memory.wfFrom start k = true)
    (h : Memory.get ((a, v) :: m) a = k.get a) : start ≤ a := by
  obtain ⟨-, -, hv, -⟩ := wfFrom_cons_iff.1 hm
  by_contra hlt
  rw [get_cons_self, get_below hk (by omega)] at h
  exact hv h

theorem eq_of_get_eq {lo : Nat} {m k : Memory} (hm : Memory.wfFrom lo m = true) (hk : Memory.wfFrom lo k = true)
    (h : ∀ a < 65536, m.get a = k.get a) : m = k := by
  induction m generalizing lo k with
  | nil =>
    cases k with
    | nil => rfl
    | cons d k =>
      obtain ⟨-, hb, -, -⟩ := wfFrom_cons_iff.1 hk
      exact absurd (start_le_of_get_eq (start := d.1 + 1) hk rfl (h d.1 hb).symm) (by omega)
  | cons c m ih =>
    obtain ⟨a, v⟩ := c
    obtain ⟨-, ha, -, hm'⟩ := wfFrom_cons_iff.1 hm
    cases k with
    | nil => exact absurd (start_le_of_get_eq (start := a + 1) hm rfl (h a ha)) (by omega)
    | cons d k =>
      obtain ⟨b, w⟩ := d
      obtain ⟨-, hb, -, hk'⟩ := wfFrom_cons_iff.1 hk
      have hba : b ≤ a := start_le_of_get_eq hm (wfFrom_head hk) (h a ha)
      have hab : a ≤ b := start_le_of_get_eq hk (wfFrom_head hm) (h b hb).symm
      obtain rfl := Nat.le_antisymm hab hba
      have hvw : v = w := by rw [← get_cons_self a v m, h a ha, get_cons_self]
      rw [hvw, ih hm' hk' fun n hn => ?_]
      by_cases hna : n = a
      · rw [hna, get_below hm' (Nat.lt_succ_self a), get_below hk' (Nat.lt_succ_self a)]
      · rw [← get_cons_of_ne v m hna, h n hn, get_cons_of_ne w k hna]

/-- Settles O7: by induction on the cells; the first cells have the same address, because a cell shows. -/
theorem equalBytesEqualMemory : Obligations.EqualBytesEqualMemory :=
  fun _ _ hm hk h => eq_of_get_eq hm hk h

/-! ## The addresses of the memory modes -/

theorem zext16_add_toNat (v w : Byte) : (zext16 (v + w)).toNat = (v.toNat + w.toNat) % 256 := by
  rw [zext16_toNat, BitVec.toNat_add]

/-- Settles O8: the sum is taken in 8 bits and then extended with zeros. -/
theorem zeroPageModesStayInPageZero : Obligations.ZeroPageModesStayInPageZero :=
  fun d s => ⟨⟨zext16_toNat d, rfl, rfl⟩, ⟨zext16_add_toNat d s.x, rfl, rfl⟩, ⟨zext16_add_toNat d s.y, rfl, rfl⟩⟩

theorem indexed_addr_toNat (base : Addr) (index : Byte) (s : State) :
    (indexed base index s).addr.toNat = (base.toNat + index.toNat) % 65536 := by
  rw [indexed, BitVec.toNat_add, zext16_toNat]

/-- The page changes exactly when the sum of the low byte and the index carries. -/
theorem indexed_extra_iff (base : Addr) (index : Byte) (s : State) :
    (indexed base index s).extra = true ↔ 256 ≤ base.toNat % 256 + index.toNat := by
  have hbase := base.isLt
  have hindex := index.isLt
  rw [indexed, pageCross_iff, BitVec.toNat_add, zext16_toNat]
  omega

/-- Settles O9: Absolute-X and Absolute-Y are the shared index sum. -/
theorem absoluteModesWrapAndSignal : Obligations.AbsoluteModesWrapAndSignal :=
  fun base s => ⟨⟨rfl, rfl, rfl⟩,
    ⟨indexed_addr_toNat base s.x s, indexed_extra_iff base s.x s, rfl⟩,
    ⟨indexed_addr_toNat base s.y s, indexed_extra_iff base s.y s, rfl⟩⟩

/-! ## Pointers in page 0 -/

theorem zext16_eq_ofNat {v : Byte} {n : Nat} (h : v.toNat = n) : zext16 v = BitVec.ofNat 16 n := by
  apply BitVec.eq_of_toNat_eq
  have := v.isLt
  rw [zext16_toNat, BitVec.toNat_ofNat]
  omega

/-- The word of a pointer in page 0, with the two addresses as numbers: `n`, and the next one with wrap. -/
theorem readZeroPagePointer_spec (s : State) {p : Byte} {n : Nat} (hp : p.toNat = n) :
    let lo : Addr := BitVec.ofNat 16 n
    let hi : Addr := BitVec.ofNat 16 ((n + 1) % 256)
    s.readZeroPagePointer p = (join ((s.afterRead lo).answer hi) (s.answer lo), (s.afterRead lo).afterRead hi) := by
  have hnext : (p + 1).toNat = (n + 1) % 256 := by rw [BitVec.toNat_add, hp]; rfl
  rw [← zext16_eq_ofNat hp, ← zext16_eq_ofNat hnext]
  rfl

theorem resolve_izx (d : Byte) (s : State) : (MemOperand.izx d).resolve s =
    { addr := (s.readZeroPagePointer (d + s.x)).1
      extra := false
      after := (s.readZeroPagePointer (d + s.x)).2 } := rfl

theorem resolve_izy (d : Byte) (s : State) : (MemOperand.izy d).resolve s =
    indexed (s.readZeroPagePointer d).1 s.y (s.readZeroPagePointer d).2 := rfl

/-- Settles O10: the word that the pointer reads answer is the address of X-Indirect and the base of Indirect-Y. -/
theorem pointerModesReadPageZero : Obligations.PointerModesReadPageZero := by
  intro d s
  constructor
  · intro p q r
    have hp : (d + s.x).toNat = (d.toNat + s.x.toNat) % 256 := BitVec.toNat_add d s.x
    have hr : r = { addr := join ((s.afterRead p).answer q) (s.answer p)
                    extra := false
                    after := (s.afterRead p).afterRead q } :=
      (resolve_izx d s).trans (by rw [readZeroPagePointer_spec s hp, Nat.mod_add_mod])
    rw [hr]
    exact ⟨join_toNat _ _, rfl, rfl⟩
  · intro p q r
    have hr : r = indexed (join ((s.afterRead p).answer q) (s.answer p)) s.y ((s.afterRead p).afterRead q) :=
      (resolve_izy d s).trans (by rw [readZeroPagePointer_spec s rfl])
    rw [hr, indexed_addr_toNat, indexed_extra_iff, join_toNat, Nat.mul_add_mod_of_lt (s.answer p).isLt]
    exact ⟨rfl, Iff.rfl, rfl⟩

/-! ## Bus transactions -/

/-- An instruction that completes does to memory what its bus transactions say, and it makes at most six of them, its
own bytes counted. -/
theorem exec_busFrame {i : Instr} {s t : State} (h : exec i s = .next t) :
    ∃ new, BusFrame s t new ∧ new.length + i.length ≤ 6 := by
  rcases exec_cases i s with ⟨-, extra, branch, u, new, hx, hu, hlen, -⟩ | ⟨opcode, rfl, -, hx⟩ | ⟨opcode, -, -, hx⟩
  · rw [hx, retire_eq] at h
    cases h
    exact ⟨new, busFrame_core hu ⟨rfl, rfl, rfl, rfl, rfl, rfl, rfl⟩ rfl rfl, hlen⟩
  · cases hx.symm.trans h
    exact ⟨[], busFrame_refl ⟨rfl, rfl, rfl, rfl, rfl, rfl, rfl⟩ rfl rfl, Nat.le_of_ble_eq_true rfl⟩
  · cases hx.symm.trans h

/-- Settles O55: the frame of the instruction's bus transactions, which are the new ones of the tick. -/
theorem memoryChangesOnlyByBusWrites : Obligations.MemoryChangesOnlyByBusWrites := by
  intro i s t h
  obtain ⟨new, ⟨-, hacc, hmem, -⟩, -⟩ := exec_busFrame h
  rw [newAccesses_eq hacc]
  exact ⟨hacc, hmem⟩

theorem takeInterrupt_accesses_length (s : State) (kind : InterruptKind) :
    (s.takeInterrupt kind).accesses.length = s.accesses.length + 5 := by
  obtain ⟨_, _, _, _, _, -, hacc, -⟩ := busFrame_enterException s kind.vector false
  rw [takeInterrupt_accesses, hacc, List.length_append]
  rfl

/-- The bytes of the instruction, and the transactions of its meaning. -/
theorem fetch_exec_accesses_length {s t : State} (h : exec s.fetch.1 s.fetch.2 = .next t) :
    t.accesses.length ≤ s.accesses.length + 6 := by
  obtain ⟨new, ⟨-, hacc, -, -⟩, hlen⟩ := exec_busFrame h
  obtain ⟨fetched, ⟨-, hfetched, -, -⟩, hcount⟩ := busFrame_afterFetch s s.fetch.1.length
  rw [hacc, (fetch_fits s).1, hfetched, List.length_append, List.length_append]
  omega

/-- Settles O56: a Running tick makes no access, an interrupt entry five, an instruction at most six with its bytes. -/
theorem atMostSixAccessesPerTick : Obligations.AtMostSixAccessesPerTick := by
  intro s t hs h
  have hempty : s.sampleLines.accesses.length = 0 := congrArg List.length hs
  rcases tick_cases s with ⟨-, ht⟩ | ⟨-, -, ht⟩ | ⟨-, -, -, ht⟩ | ⟨-, -, -, ht⟩
  · cases ht.symm.trans h
    rw [countDown_accesses, hs]
    exact Nat.zero_le 6
  · cases ht.symm.trans h
    rw [takeInterrupt_accesses_length, hempty]
    exact Nat.le_succ 5
  · cases ht.symm.trans h
    rw [takeInterrupt_accesses_length, hempty]
    exact Nat.le_succ 5
  · have hlen := fetch_exec_accesses_length (ht.symm.trans h)
    rwa [hempty] at hlen

end Sys2Proof.Proofs
end

section
/-! PROOFS. The encoding (30_encoding.md): the decoder's equation for each format of R80, the round trip in both
directions, the lengths of R83 and the sentinel of R85. -/

namespace Sys2Proof.Proofs

open Sys2Proof.Machine Sys2Proof.Machine.Laws

/-! ## The decoder, one equation for each format -/

theorem decode_undef {opcode : Byte} (h : slotOf opcode = .undef) (rest : List Byte) :
    decode (opcode :: rest) = .ok (.undefined opcode, rest) := by
  simp only [decode, h]

theorem decode_one {opcode : Byte} {i : Instr} (h : slotOf opcode = .one i) (rest : List Byte) :
    decode (opcode :: rest) = .ok (i, rest) := by
  simp only [decode, h]

theorem decode_two {opcode : Byte} {f : Byte → Instr} (h : slotOf opcode = .two f) (d : Byte) (rest : List Byte) :
    decode (opcode :: d :: rest) = .ok (f d, rest) := by
  simp only [decode, h]

theorem decode_three {opcode : Byte} {f : Addr → Instr} (h : slotOf opcode = .three f) (lo hi : Byte)
    (rest : List Byte) : decode (opcode :: lo :: hi :: rest) = .ok (f (join hi lo), rest) := by
  simp only [decode, h]

theorem decode_two_inv {opcode : Byte} {f : Byte → Instr} {bytes rest : List Byte} {i : Instr}
    (h : slotOf opcode = .two f) (hd : decode (opcode :: bytes) = .ok (i, rest)) :
    ∃ d, bytes = d :: rest ∧ i = f d := by
  match bytes with
  | [] => simp [decode, h] at hd
  | d :: bytes =>
    cases (decode_two h d bytes).symm.trans hd
    exact ⟨d, rfl, rfl⟩

theorem decode_three_inv {opcode : Byte} {f : Addr → Instr} {bytes rest : List Byte} {i : Instr}
    (h : slotOf opcode = .three f) (hd : decode (opcode :: bytes) = .ok (i, rest)) :
    ∃ lo hi, bytes = lo :: hi :: rest ∧ i = f (join hi lo) := by
  match bytes with
  | [] | [_] => simp [decode, h] at hd
  | lo :: hi :: bytes =>
    cases (decode_three h lo hi bytes).symm.trans hd
    exact ⟨lo, hi, rfl, rfl⟩

/-! ## The sentinel -/

theorem wf_undefined_iff (opcode : Byte) : (Instr.undefined opcode).wf = true ↔ opcode ∈ undefinedBytes :=
  List.contains_iff_mem

theorem slotOf_of_mem_undefinedBytes {opcode : Byte} (h : opcode ∈ undefinedBytes) : slotOf opcode = .undef := by
  have hk := congrArg Prod.fst (Sys2Proof.Laws.undefined_decodes opcode h)
  rw [decodeKindMode] at hk
  rcases slotFits opcode with ⟨hs, -⟩ | ⟨j, hs, -, -, -, hj⟩ | ⟨f, hs, hf⟩ | ⟨f, hs, hf⟩
  · exact hs
  · rw [hs] at hk
    exact absurd hk hj
  · obtain ⟨-, -, -, hf⟩ := hf 0x00
    rw [hs] at hk
    exact absurd hk hf
  · obtain ⟨-, -, -, hf⟩ := hf 0x0000
    rw [hs] at hk
    exact absurd hk hf

/-! ## Decode of encode -/

/-- The encoding of the instruction decodes to it, whatever bytes come after. -/
def ReadBack (i : Instr) : Prop := ∀ rest, decode (encode i ++ rest) = .ok (i, rest)

theorem readBack_one {i : Instr} {opcode : Byte} (he : encode i = [opcode]) (hs : slotOf opcode = .one i) :
    ReadBack i := by
  intro rest
  rw [he]
  exact decode_one hs rest

theorem readBack_two {f : Byte → Instr} {opcode : Byte} (he : ∀ d, encode (f d) = [opcode, d])
    (hs : slotOf opcode = .two f) (d : Byte) : ReadBack (f d) := by
  intro rest
  rw [he]
  exact decode_two hs d rest

/-- The word is joined again from the two bytes that it was cut into. -/
theorem readBack_three {f : Addr → Instr} {opcode : Byte} (he : ∀ w, encode (f w) = opcode :: wordBytes w)
    (hs : slotOf opcode = .three f) (w : Addr) : ReadBack (f w) := by
  intro rest
  rw [he]
  exact (decode_three hs (loByte w) (hiByte w) rest).trans (by rw [join_hiByte_loByte])

theorem readBack_undefined {opcode : Byte} (hw : (Instr.undefined opcode).wf = true) :
    ReadBack (.undefined opcode) :=
  decode_undef (slotOf_of_mem_undefinedBytes ((wf_undefined_iff opcode).1 hw))

/-! The entry that the table must have at the row of R87 for a mode, one definition for each operand form. -/

/-- The entry for a memory operand. -/
def memSlot (f : MemOperand → Instr) : Mode → Slot
  | .zp => .two fun d => f (.zp d)
  | .zpx => .two fun d => f (.zpx d)
  | .zpy => .two fun d => f (.zpy d)
  | .abs => .three fun w => f (.abs w)
  | .abx => .three fun w => f (.abx w)
  | .aby => .three fun w => f (.aby w)
  | .izx => .two fun d => f (.izx d)
  | .izy => .two fun d => f (.izy d)
  | _ => .undef

/-- The entry for a read operand. -/
def sourceSlot (f : Source → Instr) : Mode → Slot
  | .imm => .two fun d => f (.imm d)
  | m => memSlot (fun o => f (.mem o)) m

/-- The entry for a read-modify-write operand. -/
def placeSlot (f : Place → Instr) : Mode → Slot
  | .acc => .one (f .acc)
  | m => memSlot (fun o => f (.mem o)) m

/-- The table of R86 has at every row of the kind in R87 the entry `slot`. -/
def HasRows (k : Kind) (slot : Mode → Slot) : Prop :=
  k.modes.map (fun m => slotOf (opcodeOf k m)) = k.modes.map slot

theorem HasRows.slotOf_eq {k : Kind} {slot : Mode → Slot} (h : HasRows k slot) {m : Mode} (hm : m ∈ k.modes) :
    slotOf (opcodeOf k m) = slot m :=
  List.map_inj_left.1 h m hm

/-- A memory operand in a mode that the kind has, behind any constructor: `sta m` as well as `lda (.mem m)`. -/
theorem readBack_memOperand {f : MemOperand → Instr} {m : MemOperand} {k : Kind}
    (he : ∀ m, encode (f m) = opcodeOf k m.mode :: m.operandBytes)
    (hs : slotOf (opcodeOf k m.mode) = memSlot f m.mode) : ReadBack (f m) := by
  cases m with
  | zp d | zpx d | zpy d | izx d | izy d => exact readBack_two (fun _ => he _) hs d
  | abs w | abx w | aby w => exact readBack_three (fun _ => he _) hs w

theorem readBack_mem {f : MemOperand → Instr} {k : Kind} {m : MemOperand} (hk : ∀ m, (f m).kind = k)
    (hrows : HasRows k (memSlot f)) (he : ∀ m, encode (f m) = opcodeOf k m.mode :: m.operandBytes)
    (hm : m.mode ∈ (f m).kind.modes) : ReadBack (f m) :=
  readBack_memOperand he (hrows.slotOf_eq (hk m ▸ hm))

theorem readBack_source {f : Source → Instr} {k : Kind} {o : Source} (hk : ∀ o, (f o).kind = k)
    (hrows : HasRows k (sourceSlot f)) (he : ∀ o, encode (f o) = opcodeOf k o.mode :: o.operandBytes)
    (hm : o.mode ∈ (f o).kind.modes) : ReadBack (f o) := by
  have hs := hrows.slotOf_eq (hk o ▸ hm)
  cases o with
  | imm d => exact readBack_two (fun d => he (.imm d)) hs d
  | mem m => exact readBack_memOperand (f := fun m => f (.mem m)) (fun m => he (.mem m)) (hs.trans (by cases m <;> rfl))

theorem readBack_place {f : Place → Instr} {k : Kind} {p : Place} (hk : ∀ p, (f p).kind = k)
    (hrows : HasRows k (placeSlot f)) (he : ∀ p, encode (f p) = opcodeOf k p.mode :: p.operandBytes)
    (hm : p.mode ∈ (f p).kind.modes) : ReadBack (f p) := by
  have hs := hrows.slotOf_eq (hk p ▸ hm)
  cases p with
  | acc => exact readBack_one (he .acc) hs
  | mem m => exact readBack_memOperand (f := fun m => f (.mem m)) (fun m => he (.mem m)) (hs.trans (by cases m <;> rfl))

/-- Every well-formed instruction is read back: the rows of its kind in R87 stand in the table of R86. -/
theorem readBack_of_wf {i : Instr} (hw : i.wf = true) : ReadBack i := by
  cases i with
  | lda o | ldx o | ldy o | adc o | sbc o | and o | ora o | eor o | cmp o | cpx o | cpy o =>
    exact readBack_source (fun _ => rfl) rfl (fun _ => rfl) (mode_of_wf hw)
  | sta m | stx m | sty m | bit m | inc m | dec m =>
    exact readBack_mem (fun _ => rfl) rfl (fun _ => rfl) (mode_of_wf hw)
  | asl p | lsr p | rol p | ror p => exact readBack_place (fun _ => rfl) rfl (fun _ => rfl) (mode_of_wf hw)
  | bcc d | bcs d | beq d | bne d | bmi d | bpl d | bvc d | bvs d => exact readBack_two (fun _ => rfl) rfl d
  | jmp j =>
    cases j with
    | abs w => exact readBack_three (f := fun w => .jmp (.abs w)) (fun _ => rfl) rfl w
    | ind w => exact readBack_three (f := fun w => .jmp (.ind w)) (fun _ => rfl) rfl w
  | jsr w => exact readBack_three (fun _ => rfl) rfl w
  | undefined opcode => exact readBack_undefined hw
  | _ => exact readBack_one rfl rfl

/-- Settles O1: each row of R87 read back through the table of R86; the sentinel through the bytes of R88. -/
theorem decodeOfEncode : Obligations.DecodeOfEncode := fun _ rest hw => readBack_of_wf hw rest

/-! ## Encode of decode -/

/-- Settles O2: the entry of the opcode byte is well-formed and encodes to the bytes that the decoder took. -/
theorem encodeOfDecode : Obligations.EncodeOfDecode := by
  intro bytes rest i h
  cases bytes with
  | nil => cases h
  | cons opcode bytes =>
    rcases slotFits opcode with ⟨hs, hm⟩ | ⟨j, hs, he, -, hw, -⟩ | ⟨f, hs, hf⟩ | ⟨f, hs, hf⟩
    · cases (decode_undef hs bytes).symm.trans h
      exact ⟨(wf_undefined_iff opcode).2 hm, rfl⟩
    · cases (decode_one hs bytes).symm.trans h
      exact ⟨hw, by rw [he]; rfl⟩
    · obtain ⟨d, rfl, rfl⟩ := decode_two_inv hs h
      obtain ⟨he, -, hw, -⟩ := hf d
      exact ⟨hw, by rw [he]; rfl⟩
    · obtain ⟨lo, hi, rfl, rfl⟩ := decode_three_inv hs h
      obtain ⟨he, -, hw, -⟩ := hf (join hi lo)
      exact ⟨hw, by rw [he, loByte_join, hiByte_join]; rfl⟩

/-! ## Lengths -/

theorem memOperand_bytes_length (m : MemOperand) : m.operandBytes.length + 1 = m.mode.length := by
  cases m <;> rfl

theorem source_bytes_length (o : Source) : o.operandBytes.length + 1 = o.mode.length := by
  cases o with
  | imm v => rfl
  | mem m => exact memOperand_bytes_length m

theorem place_bytes_length (p : Place) : p.operandBytes.length + 1 = p.mode.length := by
  cases p with
  | acc => rfl
  | mem m => exact memOperand_bytes_length m

/-- The encoding is as long as the mode says, well-formed or not: only the opcode byte depends on the kind. -/
theorem encode_length (i : Instr) : (encode i).length = i.mode.length := by
  cases i with
  | lda o | ldx o | ldy o | adc o | sbc o | and o | ora o | eor o | cmp o | cpx o | cpy o =>
    exact source_bytes_length o
  | sta m | stx m | sty m | bit m | inc m | dec m => exact memOperand_bytes_length m
  | asl p | lsr p | rol p | ror p => exact place_bytes_length p
  | jmp j => cases j <;> rfl
  | _ => rfl

/-- Settles O4: the length of the encoding is the mode's, and R83 is the table of the modes. -/
theorem encodedLengthIsModeLength : Obligations.EncodedLengthIsModeLength := by
  intro i _
  rw [encode_length]
  generalize i.mode = m
  cases m <;> decide

/-! ## The sentinel in the table -/

/-- What the table says of an opcode byte is the kind and the mode of a well-formed instruction with that byte. -/
theorem exists_wf_decodeKindMode (opcode : Byte) :
    ∃ i : Instr, i.wf = true ∧ i.opcode = opcode ∧ decodeKindMode opcode = (i.kind, i.mode) := by
  rw [decodeKindMode]
  rcases slotFits opcode with ⟨hs, hm⟩ | ⟨j, hs, he, -, hw, -⟩ | ⟨f, hs, hf⟩ | ⟨f, hs, hf⟩
  · exact ⟨.undefined opcode, (wf_undefined_iff opcode).2 hm, rfl, by rw [hs]; rfl⟩
  · exact ⟨j, hw, (List.cons.inj he).1, by rw [hs]⟩
  · obtain ⟨he, -, hw, -⟩ := hf 0x00
    exact ⟨f 0x00, hw, (List.cons.inj he).1, by rw [hs]⟩
  · obtain ⟨he, -, hw, -⟩ := hf 0x0000
    exact ⟨f 0x0000, hw, (List.cons.inj he).1, by rw [hs]⟩

theorem kind_undefined_iff_of_wf {i : Instr} (hw : i.wf = true) :
    i.kind = .undefined ↔ i.opcode ∈ undefinedBytes := by
  constructor
  · intro hk
    cases i with
    | undefined opcode => exact (wf_undefined_iff opcode).1 hw
    | _ => cases hk
  · intro hm
    by_contra hk
    have hpair := (Sys2Proof.Laws.TableRow.of_kind hk hw).symm.trans (Sys2Proof.Laws.undefined_decodes i.opcode hm)
    exact hk (congrArg Prod.fst hpair)

/-- The mode UNDEFINED is the sentinel's alone. -/
theorem undefined_mem_modes : ∀ k : Kind, ∀ m ∈ k.modes, m = .undefined ↔ k = .undefined := by
  intro k
  cases k <;> decide

/-- Settles O3: the entry of a byte is the pair of a well-formed instruction with that byte, and among these only the
sentinel has a byte of R88. -/
theorem sentinelExactlyOnUndefinedBytes : Obligations.SentinelExactlyOnUndefinedBytes := by
  refine ⟨fun opcode => ?_, rfl⟩
  obtain ⟨i, hw, rfl, hpair⟩ := exists_wf_decodeKindMode opcode
  rw [hpair]
  exact ⟨kind_undefined_iff_of_wf hw,
    (undefined_mem_modes i.kind i.mode (mode_of_wf hw)).trans (kind_undefined_iff_of_wf hw)⟩

/-- Settles O5: the lookup of each word in the table. -/
theorem sampleWordsDecode : Obligations.SampleWordsDecode :=
  ⟨rfl, rfl, rfl, rfl, rfl, rfl, rfl, rfl, rfl, rfl, rfl⟩

end Sys2Proof.Proofs
end

section
/-! PROOFS. The frame of the addressing resolver (40_addressing_resolver.md R110, R111). -/

namespace Sys2Proof.Proofs

open Sys2Proof.Machine Sys2Proof.Machine.Laws

/-- The resolver adds no bus transaction, or the two reads of a page-0 pointer. -/
theorem resolve_accesses_reads (m : MemOperand) (s : State) :
    ∃ reads : List BusAccess, (m.resolve s).after.accesses = s.accesses ++ reads ∧
      ∀ e ∈ reads, ∃ (a : Addr) (v : Byte), e = .read a v := by
  rcases resolve_after m s with h | ⟨p, q, h⟩
  · exact ⟨[], by rw [h, List.append_nil], fun _ he => absurd he List.not_mem_nil⟩
  · refine ⟨[.read p (s.answer p), .read q ((s.afterRead p).answer q)], ?_, ?_⟩
    · rw [h, afterRead_accesses, afterRead_accesses, List.append_assoc, List.singleton_append]
    · simp

theorem resolve_sameSurroundings (m : MemOperand) (s : State) : SameSurroundings s (m.resolve s).after :=
  ⟨resolve_nmiPrev m s, resolve_nmi m s, resolve_irq m s, resolve_schedule m s, resolve_policy m s, resolve_bus m s,
    resolve_busPast m s⟩

/-- Settles O11: the resolver's laws, one for each part of the state, and the reads that it adds. -/
theorem resolverTouchesOnlyTheBus : Obligations.ResolverTouchesOnlyTheBus :=
  fun m s => ⟨⟨resolve_a m s, resolve_x m s, resolve_y m s, resolve_sp m s⟩, resolve_pc m s, resolve_flags m s,
    resolve_latency m s, resolve_result m s, resolve_mem m s, resolve_sameSurroundings m s, resolve_accesses_reads m s⟩

end Sys2Proof.Proofs
end

section
/-! PROOFS. Loads, stores and register transfers (41_load_store_transfer.md): what the retirement of each of the three
shapes leaves, said once, and each instruction as one of them. -/

namespace Sys2Proof.Proofs

open Sys2Proof.Machine Sys2Proof.Machine.Laws

/-! ## An instruction that only reads its operand -/

/-- The state after the operand's reads, with other registers and flags, another latency and another result. -/
theorem readOnlyFrame_load (o : Source) (s : State) (a x y : Byte) (f : Flags) (latency : BitVec 3)
    (result : Option TickResult) :
    ReadOnlyFrame (o.load s).after s { (o.load s).after with
      a := a, x := x, y := y, flags := f, latency := latency, result := result } :=
  ⟨load_after_sp o s, load_after_pc o s, load_after_peek o s,
    ⟨load_after_nmiPrev o s, load_after_nmi o s, load_after_irq o s, load_after_schedule o s, load_after_policy o s,
      load_after_bus o s, load_after_busPast o s⟩,
    ⟨rfl, rfl⟩⟩

/-- A read instruction completes with the registers and flags that it sets; the tables price it. -/
theorem read_completes {i : Instr} {o : Source} {s : State} {a x y : Byte} {f : Flags}
    (hx : exec i s = retire i s.pc (o.load s).extra 0
      { (o.load s).after with a := a, x := x, y := y, flags := f })
    (hw : i.wf = true) (hk : i.kind ∈ readKinds) (hm : i.mode = o.mode) :
    ∃ t, exec i s = .next t ∧ t.a = a ∧ t.x = x ∧ t.y = y ∧ t.flags = f ∧
      ReadOnlyFrame (o.load s).after s t ∧
      Retired i.opcode o.mode.length (readCost o.mode + bitValue (o.load s).extra) s t ∧
      (o.mode, i.opcode) ∈ i.kind.rows := by
  have hkind : i.kind ≠ .undefined := fun h => absurd (h ▸ hk) (by decide)
  obtain ⟨htotal, hlow, hhigh, hrow⟩ :=
    read_total_table i.kind hk i.mode (mode_of_wf hw) (o.load s).extra fun he => hm ▸ load_extra_mode he
  rw [← opcode_eq hkind] at htotal hrow
  rw [← hm]
  exact ⟨_, hx.trans (retire_eq ..), rfl, rfl, rfl, rfl, readOnlyFrame_load o s a x y f _ _,
    retired_of s _ htotal hlow hhigh, hrow⟩

theorem exec_lda (o : Source) (s : State) : exec (.lda o) s =
    retire (.lda o) s.pc (o.load s).extra 0 { (o.load s).after with
      a := (o.load s).value, x := s.x, y := s.y, flags := flagsNZ s.flags (o.load s).value.toNat } := by
  simp only [exec, execLda, State.setNZ, setNZ_eq, load_after_x, load_after_y, load_after_flags]

theorem exec_ldx (o : Source) (s : State) : exec (.ldx o) s =
    retire (.ldx o) s.pc (o.load s).extra 0 { (o.load s).after with
      a := s.a, x := (o.load s).value, y := s.y, flags := flagsNZ s.flags (o.load s).value.toNat } := by
  simp only [exec, execLdx, State.setNZ, setNZ_eq, load_after_a, load_after_y, load_after_flags]

theorem exec_ldy (o : Source) (s : State) : exec (.ldy o) s =
    retire (.ldy o) s.pc (o.load s).extra 0 { (o.load s).after with
      a := s.a, x := s.x, y := (o.load s).value, flags := flagsNZ s.flags (o.load s).value.toNat } := by
  simp only [exec, execLdy, State.setNZ, setNZ_eq, load_after_a, load_after_x, load_after_flags]

/-- Settles O13: each load is a read instruction that puts the operand value into its register. -/
theorem loadsSetRegisterAndNZ : Obligations.LoadsSetRegisterAndNZ := by
  intro o s
  refine ⟨fun hw => ?_, fun hw => ?_, fun hw => ?_⟩
  · exact read_completes (exec_lda o s) hw (show Kind.lda ∈ readKinds by decide) rfl
  · obtain ⟨t, ht, ha, hx, hy, hrest⟩ := read_completes (exec_ldx o s) hw (show Kind.ldx ∈ readKinds by decide) rfl
    exact ⟨t, ht, hx, ha, hy, hrest⟩
  · obtain ⟨t, ht, ha, hx, hy, hrest⟩ := read_completes (exec_ldy o s) hw (show Kind.ldy ∈ readKinds by decide) rfl
    exact ⟨t, ht, hy, ha, hx, hrest⟩

/-! ## A store -/

/-- A store completes with one write at the address that the resolver gives; the tables price it, page cross or not. -/
theorem store_completes {i : Instr} {m : MemOperand} {s : State} {v : Byte}
    (hx : exec i s = retire i s.pc (m.resolve s).extra 0 ((m.resolve s).after.write (m.resolve s).addr v))
    (hw : i.wf = true) (hk : i.kind ∈ ([.sta, .stx, .sty] : List Kind)) (hm : i.mode = m.mode) :
    ∃ t, exec i s = .next t ∧
      SameRegisters s t ∧ t.pc = s.pc ∧ t.flags = s.flags ∧ SameSurroundings s t ∧
      StoresOnly s t [((m.resolve s).addr, v)] ∧
      t.accesses = (m.resolve s).after.accesses ++ [.write (m.resolve s).addr v] ∧
      Retired i.opcode m.mode.length (storeCost m.mode) s t ∧ (m.mode, i.opcode) ∈ i.kind.rows := by
  obtain ⟨hregs, hpc, hflags, -, -, hmem, hsurr, -⟩ := resolverTouchesOnlyTheBus m s
  have hkind : i.kind ≠ .undefined := fun h => absurd (h ▸ hk) (by decide)
  obtain ⟨htotal, hlow, hhigh, hrow⟩ := store_total_table i.kind hk i.mode (mode_of_wf hw) (m.resolve s).extra
  rw [← opcode_eq hkind] at htotal hrow
  rw [← hm]
  exact ⟨_, hx.trans (retire_eq ..), hregs, hpc, hflags, hsurr,
    storesOnly_write (storesOnly_refl hmem) (resolve_bus m s) List.not_mem_nil rfl, rfl,
    retired_of s _ htotal hlow hhigh, hrow⟩

theorem exec_sta (m : MemOperand) (s : State) : exec (.sta m) s =
    retire (.sta m) s.pc (m.resolve s).extra 0 ((m.resolve s).after.write (m.resolve s).addr s.a) := by
  rw [← resolve_a m s]
  rfl

theorem exec_stx (m : MemOperand) (s : State) : exec (.stx m) s =
    retire (.stx m) s.pc (m.resolve s).extra 0 ((m.resolve s).after.write (m.resolve s).addr s.x) := by
  rw [← resolve_x m s]
  rfl

theorem exec_sty (m : MemOperand) (s : State) : exec (.sty m) s =
    retire (.sty m) s.pc (m.resolve s).extra 0 ((m.resolve s).after.write (m.resolve s).addr s.y) := by
  rw [← resolve_y m s]
  rfl

/-- Settles O14: each store writes its register, which the resolver leaves alone. -/
theorem storesWriteOneByteAndNoFlag : Obligations.StoresWriteOneByteAndNoFlag := fun m s =>
  ⟨fun hw => store_completes (exec_sta m s) hw (by simp [Instr.kind]) rfl,
    fun hw => store_completes (exec_stx m s) hw (by simp [Instr.kind]) rfl,
    fun hw => store_completes (exec_sty m s) hw (by simp [Instr.kind]) rfl⟩

/-! ## A transfer -/

/-- A one-byte instruction of two cycles that sets N and Z. -/
theorem retire_setNZ_of_two_cycles {i : Instr} {opcode : Byte} (next : Addr) (u : State) (v : Byte)
    (ho : i.opcode = opcode) (hl : i.length = 1) (ht : totalCycles opcode false 0 = 2) :
    retire i next false 0 (u.setNZ v) = .next { u with
      flags := flagsNZ u.flags v.toNat, latency := 1, result := some (.executed opcode (next - 1) 2) } := by
  rw [retire_as ho hl ht, ← setNZ_eq]
  rfl

/-- Settles O15: the five transfers that set N and Z retire so; TXS retires without a flag. -/
theorem transfersMoveRegister : Obligations.TransfersMoveRegister := fun s =>
  ⟨retire_setNZ_of_two_cycles (i := .tax) s.pc { s with x := s.a } s.a rfl rfl rfl,
    retire_setNZ_of_two_cycles (i := .tay) s.pc { s with y := s.a } s.a rfl rfl rfl,
    retire_setNZ_of_two_cycles (i := .txa) s.pc { s with a := s.x } s.x rfl rfl rfl,
    retire_setNZ_of_two_cycles (i := .tya) s.pc { s with a := s.y } s.y rfl rfl rfl,
    retire_setNZ_of_two_cycles (i := .tsx) s.pc { s with x := s.sp } s.sp rfl rfl rfl,
    retire_as (i := .txs) (u := { s with sp := s.x }) rfl rfl rfl⟩

end Sys2Proof.Proofs
end

section
/-! PROOFS. Arithmetic, logic, compare, increment and decrement (42_arithmetic_logic.md): each flag computation as the
numbers of its rule, each instruction as one that only reads its operand, as a read-modify-write or as a step of an
index register. -/

namespace Sys2Proof.Proofs

open Sys2Proof.Machine Sys2Proof.Machine.Laws

/-! ## The sum of ADC, the difference of SBC -/

/-- The flags of a sum as numbers: `n` and `signed` are its unsigned and signed value. -/
theorem setArith_add_eq (f : Flags) (a m : Byte) {n : Nat} {signed : Int}
    (hn : a.toNat + m.toNat + bitValue f.c = n) (hs : a.toInt + m.toInt + (bitValue f.c : Int) = signed) :
    f.setArith (addResult a m f.c) (addCarry a m f.c) (addOverflow a m f.c) = { f with
      n := decide (128 ≤ n % 256), z := decide (n % 256 = 0), c := decide (256 ≤ n),
      v := decide (signed < -128 ∨ 127 < signed) } := by
  rw [Flags.setArith, bit7, eq_zero_iff, addResult_toNat, addCarry_eq, addOverflow_eq, hn, hs]

theorem bitValue_le_one (b : Bool) : bitValue b ≤ 1 := by
  cases b <;> decide

/-- As signed numbers too, the one's complement is the negation less one. -/
theorem complement_toInt (m : Byte) : (m ^^^ 0xFF).toInt = -m.toInt - 1 := by
  have hm := m.isLt
  rw [toInt_eq, toInt_eq, complement_toNat]
  split <;> split <;> omega

/-- The operand and the borrow, added back to the sum that SBC takes, give A and 256. -/
theorem add_complement (a m : Byte) (c : Bool) :
    a.toNat + (m ^^^ 0xFF).toNat + bitValue c + (m.toNat + (1 - bitValue c)) = a.toNat + 256 := by
  have hm := m.isLt
  have hc := bitValue_le_one c
  rw [complement_toNat]
  omega

/-- The flags of SBC: the sum's flags, with the complement turned into the operand and the borrow. -/
theorem setArith_sub_eq (f : Flags) (a m : Byte) {borrow difference : Nat} {signed : Int}
    (hb : 1 - bitValue f.c = borrow) (hd : (a.toNat + 256 - m.toNat + 256 - borrow) % 256 = difference)
    (hs : a.toInt - m.toInt - (borrow : Int) = signed) :
    (addResult a (m ^^^ 0xFF) f.c).toNat = difference ∧
    f.setArith (addResult a (m ^^^ 0xFF) f.c) (addCarry a (m ^^^ 0xFF) f.c) (addOverflow a (m ^^^ 0xFF) f.c) = { f with
      n := decide (128 ≤ difference), z := decide (difference = 0), c := decide (m.toNat + borrow ≤ a.toNat),
      v := decide (signed < -128 ∨ 127 < signed) } := by
  have hm := m.isLt
  have hc := bitValue_le_one f.c
  have hsum := add_complement a m f.c
  have hmod : (a.toNat + (m ^^^ 0xFF).toNat + bitValue f.c) % 256 = difference := by omega
  have hcarry : 256 ≤ a.toNat + (m ^^^ 0xFF).toNat + bitValue f.c ↔ m.toNat + borrow ≤ a.toNat := by omega
  have hsigned : a.toInt + (m ^^^ 0xFF).toInt + (bitValue f.c : Int) = signed := by
    rw [complement_toInt]
    omega
  rw [setArith_add_eq f a (m ^^^ 0xFF) rfl hsigned, addResult_toNat, hmod]
  simp only [hcarry, and_self]

theorem exec_adc (o : Source) (s : State) : exec (.adc o) s =
    retire (.adc o) s.pc (o.load s).extra 0 { (o.load s).after with
      a := addResult s.a (o.load s).value s.flags.c, x := s.x, y := s.y,
      flags := s.flags.setArith (addResult s.a (o.load s).value s.flags.c) (addCarry s.a (o.load s).value s.flags.c)
        (addOverflow s.a (o.load s).value s.flags.c) } := by
  simp only [exec, execAdc, load_after_a, load_after_x, load_after_y, load_after_flags]

theorem exec_sbc (o : Source) (s : State) : exec (.sbc o) s =
    retire (.sbc o) s.pc (o.load s).extra 0 { (o.load s).after with
      a := addResult s.a ((o.load s).value ^^^ 0xFF) s.flags.c, x := s.x, y := s.y,
      flags := s.flags.setArith (addResult s.a ((o.load s).value ^^^ 0xFF) s.flags.c)
        (addCarry s.a ((o.load s).value ^^^ 0xFF) s.flags.c)
        (addOverflow s.a ((o.load s).value ^^^ 0xFF) s.flags.c) } := by
  simp only [exec, execSbc, load_after_a, load_after_x, load_after_y, load_after_flags]

/-- Settles O16: ADC is a read instruction; its sum and its flags are read as numbers. -/
theorem adcIsExactSum : Obligations.AdcIsExactSum := by
  intro o s hw m sum signed
  obtain ⟨t, ht, ha, hx, hy, hf, hrest⟩ := read_completes (exec_adc o s) hw (show Kind.adc ∈ readKinds by decide) rfl
  exact ⟨t, ht, ha ▸ addResult_toNat s.a m s.flags.c, hx, hy, hf.trans (setArith_add_eq s.flags s.a m rfl rfl), hrest⟩

/-- Settles O17: SBC is a read instruction; its sum with the one's complement is read as a difference. -/
theorem sbcIsExactDifference : Obligations.SbcIsExactDifference := by
  intro o s hw m borrow difference signed
  obtain ⟨t, ht, ha, hx, hy, hf, hrest⟩ := read_completes (exec_sbc o s) hw (show Kind.sbc ∈ readKinds by decide) rfl
  obtain ⟨hresult, hflags⟩ := setArith_sub_eq s.flags s.a m (borrow := borrow) (difference := difference)
    (signed := signed) rfl rfl rfl
  exact ⟨t, ht, ha ▸ hresult, hx, hy, hf.trans hflags, hrest⟩

/-! ## Logic, BIT and the compares -/

theorem exec_and (o : Source) (s : State) : exec (.and o) s =
    retire (.and o) s.pc (o.load s).extra 0 { (o.load s).after with
      a := s.a &&& (o.load s).value, x := s.x, y := s.y,
      flags := flagsNZ s.flags (s.a &&& (o.load s).value).toNat } := by
  simp only [exec, execAnd, State.setNZ, setNZ_eq, load_after_a, load_after_x, load_after_y, load_after_flags]

theorem exec_ora (o : Source) (s : State) : exec (.ora o) s =
    retire (.ora o) s.pc (o.load s).extra 0 { (o.load s).after with
      a := s.a ||| (o.load s).value, x := s.x, y := s.y,
      flags := flagsNZ s.flags (s.a ||| (o.load s).value).toNat } := by
  simp only [exec, execOra, State.setNZ, setNZ_eq, load_after_a, load_after_x, load_after_y, load_after_flags]

theorem exec_eor (o : Source) (s : State) : exec (.eor o) s =
    retire (.eor o) s.pc (o.load s).extra 0 { (o.load s).after with
      a := s.a ^^^ (o.load s).value, x := s.x, y := s.y,
      flags := flagsNZ s.flags (s.a ^^^ (o.load s).value).toNat } := by
  simp only [exec, execEor, State.setNZ, setNZ_eq, load_after_a, load_after_x, load_after_y, load_after_flags]

/-- Settles O18: each of the three is a read instruction that puts the bitwise result into A. -/
theorem logicOnAccumulator : Obligations.LogicOnAccumulator := fun o s =>
  ⟨fun hw => read_completes (exec_and o s) hw (show Kind.and ∈ readKinds by decide) rfl,
    fun hw => read_completes (exec_ora o s) hw (show Kind.ora ∈ readKinds by decide) rfl,
    fun hw => read_completes (exec_eor o s) hw (show Kind.eor ∈ readKinds by decide) rfl⟩

theorem exec_bit (m : MemOperand) (s : State) : exec (.bit m) s =
    retire (.bit m) s.pc ((Source.mem m).load s).extra 0 { ((Source.mem m).load s).after with
      a := s.a, x := s.x, y := s.y, flags := s.flags.setBit s.a (m.load s).value } := by
  simp only [exec, execBit, load_mem, memLoad_after, afterRead_a, afterRead_x, afterRead_y, afterRead_flags, resolve_a,
    resolve_x, resolve_y, resolve_flags]

/-- Neither mode of BIT is indexed. -/
theorem bit_extra {m : MemOperand} (hw : (Instr.bit m).wf = true) (s : State) : (m.load s).extra = false := by
  have hmodes : ∀ mode ∈ Kind.bit.modes, mode ∉ crossModes := by decide
  exact Bool.eq_false_iff.2 fun h => hmodes m.mode (mode_of_wf hw) (resolve_extra_mode h)

/-- Settles O19: BIT is a read instruction that keeps the registers; its modes signal no extra cycle. -/
theorem bitCopiesMemoryBits : Obligations.BitCopiesMemoryBits := by
  intro m s hw
  obtain ⟨t, ht, ha, hx, hy, hf, hframe, hretired, hrow⟩ :=
    read_completes (exec_bit m s) hw (show Kind.bit ∈ readKinds by decide) rfl
  rw [load_mem, bit_extra hw s] at hretired
  exact ⟨t, ht, ha, hx, hy, hf.trans (setBit_eq ..), hframe, hretired, hrow⟩

theorem exec_cmp (o : Source) (s : State) : exec (.cmp o) s =
    retire (.cmp o) s.pc (o.load s).extra 0 { (o.load s).after with
      a := s.a, x := s.x, y := s.y, flags := s.flags.setCompare s.a (o.load s).value } := by
  simp only [exec, execCmp, load_after_a, load_after_x, load_after_y, load_after_flags]

theorem exec_cpx (o : Source) (s : State) : exec (.cpx o) s =
    retire (.cpx o) s.pc (o.load s).extra 0 { (o.load s).after with
      a := s.a, x := s.x, y := s.y, flags := s.flags.setCompare s.x (o.load s).value } := by
  simp only [exec, execCpx, load_after_a, load_after_x, load_after_y, load_after_flags]

theorem exec_cpy (o : Source) (s : State) : exec (.cpy o) s =
    retire (.cpy o) s.pc (o.load s).extra 0 { (o.load s).after with
      a := s.a, x := s.x, y := s.y, flags := s.flags.setCompare s.y (o.load s).value } := by
  simp only [exec, execCpy, load_after_a, load_after_x, load_after_y, load_after_flags]

/-- Settles O20: each compare is a read instruction that keeps the registers; its flags are read as numbers. -/
theorem comparesOrderUnsigned : Obligations.ComparesOrderUnsigned := by
  intro o s
  simp only [← setCompare_eq]
  exact ⟨fun hw => read_completes (exec_cmp o s) hw (show Kind.cmp ∈ readKinds by decide) rfl,
    fun hw => read_completes (exec_cpx o s) hw (show Kind.cpx ∈ readKinds by decide) rfl,
    fun hw => read_completes (exec_cpy o s) hw (show Kind.cpy ∈ readKinds by decide) rfl⟩

/-! ## A read-modify-write of memory -/

/-- A read-modify-write of memory completes with one read and one write at the address that the resolver gives; the
tables price it, page cross or not. -/
theorem modify_completes {i : Instr} {m : MemOperand} {s : State} {r : Byte} {f : Flags}
    (hx : exec i s = retire i s.pc (m.resolve s).extra 0
      { (m.load s).after.write (m.resolve s).addr r with flags := f })
    (hw : i.wf = true) (hk : i.kind ∈ ([.inc, .dec, .asl, .lsr, .rol, .ror] : List Kind)) (hm : i.mode = m.mode) :
    ∃ t, exec i s = .next t ∧
      SameRegisters s t ∧ t.pc = s.pc ∧ SameSurroundings s t ∧ t.flags = f ∧
      StoresOnly s t [((m.resolve s).addr, r)] ∧
      t.accesses = (m.resolve s).after.accesses ++
        [.read (m.resolve s).addr (m.load s).value, .write (m.resolve s).addr r] ∧
      Retired i.opcode m.mode.length (modifyCost m.mode) s t ∧ (m.mode, i.opcode) ∈ i.kind.rows := by
  obtain ⟨hregs, hpc, -, -, -, hmem, hsurr, -⟩ := resolverTouchesOnlyTheBus m s
  have hkind : i.kind ≠ .undefined := fun h => absurd (h ▸ hk) (by decide)
  obtain ⟨htotal, hlow, hhigh, hrow⟩ := modify_total_table i.kind hk i.mode (mode_of_wf hw) (m.resolve s).extra
  rw [← opcode_eq hkind] at htotal hrow
  rw [← hm]
  exact ⟨_, hx.trans (retire_eq ..), hregs, hpc, hsurr, rfl,
    storesOnly_write (u := (m.load s).after) (storesOnly_refl hmem) (resolve_bus m s) List.not_mem_nil rfl,
    List.append_assoc .., retired_of s _ htotal hlow hhigh, hrow⟩

theorem exec_inc (m : MemOperand) (s : State) : exec (.inc m) s =
    retire (.inc m) s.pc (m.resolve s).extra 0
      { (m.load s).after.write (m.resolve s).addr ((m.load s).value + 1) with
        flags := flagsNZ s.flags ((m.load s).value + 1).toNat } := by
  rw [← setNZ_eq, ← resolve_flags m s]
  rfl

theorem exec_dec (m : MemOperand) (s : State) : exec (.dec m) s =
    retire (.dec m) s.pc (m.resolve s).extra 0
      { (m.load s).after.write (m.resolve s).addr ((m.load s).value - 1) with
        flags := flagsNZ s.flags ((m.load s).value - 1).toNat } := by
  rw [← setNZ_eq, ← resolve_flags m s]
  rfl

theorem add_one_toNat (v : Byte) : (v + 1).toNat = (v.toNat + 1) % 256 := BitVec.toNat_add v 1

theorem sub_one_toNat (v : Byte) : (v - 1).toNat = (v.toNat + 255) % 256 := by
  rw [BitVec.toNat_sub, Nat.add_comm]
  rfl

/-- Settles O21: each of the two is a read-modify-write whose new byte is the old one plus or minus 1. -/
theorem incDecMemoryWraps : Obligations.IncDecMemoryWraps := by
  intro m s
  refine ⟨fun hw => ?_, fun hw => ?_⟩
  · obtain ⟨t, ht, hrest⟩ := modify_completes (exec_inc m s) hw (by simp [Instr.kind]) rfl
    exact ⟨t, _, ht, add_one_toNat _, hrest⟩
  · obtain ⟨t, ht, hrest⟩ := modify_completes (exec_dec m s) hw (by simp [Instr.kind]) rfl
    exact ⟨t, _, ht, sub_one_toNat _, hrest⟩

/-! ## A step of an index register -/

/-- Settles O22: each of the four is a one-byte instruction of two cycles that sets N and Z. -/
theorem indexStepsWrap : Obligations.IndexStepsWrap := fun s =>
  ⟨⟨s.x + 1, add_one_toNat s.x, retire_setNZ_of_two_cycles (i := .inx) s.pc { s with x := s.x + 1 } _ rfl rfl rfl⟩,
    ⟨s.y + 1, add_one_toNat s.y, retire_setNZ_of_two_cycles (i := .iny) s.pc { s with y := s.y + 1 } _ rfl rfl rfl⟩,
    ⟨s.x - 1, sub_one_toNat s.x, retire_setNZ_of_two_cycles (i := .dex) s.pc { s with x := s.x - 1 } _ rfl rfl rfl⟩,
    ⟨s.y - 1, sub_one_toNat s.y, retire_setNZ_of_two_cycles (i := .dey) s.pc { s with y := s.y - 1 } _ rfl rfl rfl⟩⟩

end Sys2Proof.Proofs
end

section
/-! PROOFS. The decimal flag (42_arithmetic_logic.md R177): a run that starts with another D does the same in every other
respect, but for the two instructions that push the status byte. The operand operations commute with any change of the
flags; PLP, RTI, CLD and SED overwrite D. -/

namespace Sys2Proof.Proofs

open Sys2Proof.Machine Sys2Proof.Machine.Laws

/-! ## Operands under a change of the flags -/

/-- The state with its flags changed by `g`. -/
def mapFlags (g : Flags → Flags) (s : State) : State := { s with flags := g s.flags }

theorem resolve_mapFlags (g : Flags → Flags) (m : MemOperand) (s : State) :
    m.resolve (mapFlags g s) = { m.resolve s with after := mapFlags g (m.resolve s).after } := by
  cases m <;> rfl

theorem memLoad_mapFlags (g : Flags → Flags) (m : MemOperand) (s : State) :
    m.load (mapFlags g s) = { m.load s with after := mapFlags g (m.load s).after } := by
  rw [MemOperand.load, resolve_mapFlags]
  rfl

theorem load_mapFlags (g : Flags → Flags) (o : Source) (s : State) :
    o.load (mapFlags g s) = { o.load s with after := mapFlags g (o.load s).after } := by
  cases o with
  | imm v => rfl
  | mem m => exact memLoad_mapFlags g m s

theorem modify_mapFlags (g : Flags → Flags) (p : Place) (f : Byte → Byte) (s : State) :
    p.modify f (mapFlags g s) = { p.modify f s with after := mapFlags g (p.modify f s).after } := by
  cases p with
  | acc => rfl
  | mem m =>
    rw [Place.modify, resolve_mapFlags]
    rfl

theorem jumpResolve_mapFlags (g : Flags → Flags) (j : JumpOperand) (s : State) :
    j.resolve (mapFlags g s) = ((j.resolve s).1, mapFlags g (j.resolve s).2) := by
  cases j <;> rfl

/-! ## Outcomes that agree up to D -/

/-- The flags with another value in D. -/
def setD (d : Bool) (f : Flags) : Flags := { f with d := d }

theorem withD_eq_mapFlags (s : State) (d : Bool) : s.withD d = mapFlags (setD d) s := rfl

/-- The outcomes are the same, but for D of the next states. -/
def AgreeButD (o p : Host.Outcome State Fault Refusal) : Prop := AgreeUpTo (fun t => t.withD false) o p

theorem agreeButD_refl (o : Host.Outcome State Fault Refusal) : AgreeButD o o := by
  cases o <;> rfl

/-- The same retirement of two states that differ in D only. -/
theorem agreeButD_of_retire {i : Instr} {s u : State} {next : Addr} {extra : Bool} {branch : Nat} {d : Bool}
    (h : exec i s = retire i next extra branch u)
    (hd : exec i (mapFlags (setD d) s) = retire i next extra branch (mapFlags (setD d) u)) :
    AgreeButD (exec i s) (exec i (mapFlags (setD d) s)) := by
  rw [h, hd]
  rfl

theorem agreeButD_branch (i : Instr) (cond : Bool) (offset : Byte) (s : State) (d : Bool) :
    AgreeButD (branchOp i cond offset s) (branchOp i cond offset (mapFlags (setD d) s)) := by
  cases cond <;> rfl

theorem agreeButD_shift (i : Instr) (f : Byte → Bool → Byte × Bool) (p : Place) (s : State) (d : Bool) :
    AgreeButD (shiftOp i f p s) (shiftOp i f p (mapFlags (setD d) s)) := by
  rw [shiftOp, shiftOp, modify_mapFlags]
  rfl

/-! ## The meanings -/

/-- No meaning but those of PHP and BRK reads D. -/
theorem exec_setD (i : Instr) (s : State) (d : Bool) (hphp : i.kind ≠ .php) (hbrk : i.kind ≠ .brk) :
    AgreeButD (exec i s) (exec i (mapFlags (setD d) s)) := by
  cases i with
  | lda o | ldx o | ldy o | adc o | sbc o | and o | ora o | eor o | cmp o | cpx o | cpy o =>
    refine agreeButD_of_retire rfl ?_
    simp only [exec, execLda, execLdx, execLdy, execAdc, execSbc, execAnd, execOra, execEor, execCmp, execCpx, execCpy,
      load_mapFlags]
    rfl
  | bit m => exact agreeButD_of_retire rfl (by rw [exec, execBit, memLoad_mapFlags]; rfl)
  | sta m | stx m | sty m =>
    refine agreeButD_of_retire rfl ?_
    simp only [exec, execSta, execStx, execSty, resolve_mapFlags]
    rfl
  | inc m | dec m =>
    refine agreeButD_of_retire rfl ?_
    simp only [exec, execInc, execDec, modify_mapFlags]
    rfl
  | asl p | lsr p | rol p | ror p => exact agreeButD_shift _ _ p s d
  | bcc offset | bne offset | bpl offset | bvc offset | bcs offset | beq offset | bmi offset | bvs offset =>
    exact agreeButD_branch _ _ offset s d
  | jmp j => exact agreeButD_of_retire rfl (by rw [exec, execJmp, jumpResolve_mapFlags]; rfl)
  | cld | sed | plp | rti => exact agreeButD_refl _
  | php => exact absurd rfl hphp
  | brk => exact absurd rfl hbrk
  | undefined opcode =>
    rw [exec, exec, execUndefined_eq, execUndefined_eq, show (mapFlags (setD d) s).policy = s.policy from rfl]
    cases s.policy <;> rfl
  -- No operand is resolved and no status byte is pushed: registers, the other flags, and the stack.
  | _ => exact agreeButD_of_retire rfl rfl

/-- Settles O52: D changed before the instruction is D changed after it, or overwritten by it. -/
theorem decimalFlagIsReadOnlyByPushes : Obligations.DecimalFlagIsReadOnlyByPushes := by
  intro i s d hphp hbrk
  rw [withD_eq_mapFlags s d]
  exact exec_setD i s d hphp hbrk

end Sys2Proof.Proofs
end

section
/-! PROOFS. Shifts and rotates (43_shift_rotate.md): what the operation that the four share does on A and on memory,
said once for any shift function, and each instruction as one of them. -/

namespace Sys2Proof.Proofs

open Sys2Proof.Machine Sys2Proof.Machine.Laws

/-! ## The bit shifted out -/

theorem shiftLeft_out (v : Byte) (c : Bool) : (shiftLeft v c).2 = decide (128 ≤ v.toNat) := bit7 v

theorem shiftRight_out (v : Byte) (c : Bool) : (shiftRight v c).2 = decide (v.toNat % 2 = 1) := bit0 v

theorem rotateLeft_out (v : Byte) (c : Bool) : (rotateLeft v c).2 = decide (128 ≤ v.toNat) := bit7 v

theorem rotateRight_out (v : Byte) (c : Bool) : (rotateRight v c).2 = decide (v.toNat % 2 = 1) := bit0 v

/-! ## A shift of the accumulator -/

/-- A one-byte shift of two cycles puts the shifted accumulator back; `n` is its value and `out` the bit shifted out. -/
theorem shift_acc_completes {i : Instr} {f : Byte → Bool → Byte × Bool} {opcode : Byte} {n : Nat} {out : Bool}
    {s : State} (hx : exec i s = shiftOp i f .acc s) (hn : (f s.a s.flags.c).1.toNat = n)
    (hout : (f s.a s.flags.c).2 = out)
    (ho : i.opcode = opcode) (hl : i.length = 1) (ht : totalCycles opcode false 0 = 2) :
    ∃ r : Byte, r.toNat = n ∧ exec i s = .next { s with
      a := r, flags := { flagsNZ s.flags r.toNat with c := out },
      latency := 1, result := some (.executed opcode (s.pc - 1) 2) } := by
  refine ⟨_, hn, ?_⟩
  rw [hx, shiftOp, modify_acc, retire_as ho hl ht, setShift_eq, hout]
  rfl

/-- Settles O23: each of the four shifts the accumulator with its own function. -/
theorem shiftsOnAccumulator : Obligations.ShiftsOnAccumulator := fun s =>
  ⟨shift_acc_completes (i := .asl .acc) rfl (shiftLeft_toNat s.a _) (shiftLeft_out s.a _) rfl rfl rfl,
    shift_acc_completes (i := .lsr .acc) rfl (shiftRight_toNat s.a _) (shiftRight_out s.a _) rfl rfl rfl,
    shift_acc_completes (i := .rol .acc) rfl (rotateLeft_toNat s.a _) (rotateLeft_out s.a _) rfl rfl rfl,
    shift_acc_completes (i := .ror .acc) rfl (rotateRight_toNat s.a _) (rotateRight_out s.a _) rfl rfl rfl⟩

/-! ## A shift of memory -/

theorem shiftOp_mem (i : Instr) (f : Byte → Bool → Byte × Bool) (m : MemOperand) (s : State) :
    shiftOp i f (.mem m) s = retire i s.pc (m.resolve s).extra 0
      { (m.load s).after.write (m.resolve s).addr (f (m.load s).value s.flags.c).1 with
        flags := { flagsNZ s.flags (f (m.load s).value s.flags.c).1.toNat with
          c := (f (m.load s).value s.flags.c).2 } } := by
  have hflags : ((Place.mem m).modify (fun v => (f v s.flags.c).1) s).after.flags = s.flags := resolve_flags m s
  rw [shiftOp, hflags, setShift_eq]
  rfl

/-- A shift of memory is a read-modify-write of the shifted byte; `n` is its value and `out` the bit shifted out. -/
theorem shift_mem_completes {i : Instr} {f : Byte → Bool → Byte × Bool} {m : MemOperand} {n : Nat} {out : Bool}
    {s : State} (hx : exec i s = shiftOp i f (.mem m) s) (hn : (f (m.load s).value s.flags.c).1.toNat = n)
    (hout : (f (m.load s).value s.flags.c).2 = out) (hw : i.wf = true)
    (hk : i.kind ∈ ([.inc, .dec, .asl, .lsr, .rol, .ror] : List Kind)) (hm : i.mode = m.mode) :
    ∃ (t : State) (r : Byte), exec i s = .next t ∧ r.toNat = n ∧
      SameRegisters s t ∧ t.pc = s.pc ∧ SameSurroundings s t ∧
      t.flags = { flagsNZ s.flags r.toNat with c := out } ∧
      StoresOnly s t [((m.resolve s).addr, r)] ∧
      t.accesses = (m.resolve s).after.accesses ++
        [.read (m.resolve s).addr (m.load s).value, .write (m.resolve s).addr r] ∧
      Retired i.opcode m.mode.length (modifyCost m.mode) s t ∧ (m.mode, i.opcode) ∈ i.kind.rows := by
  rw [shiftOp_mem, hout] at hx
  obtain ⟨t, ht, hrest⟩ := modify_completes hx hw hk hm
  exact ⟨t, _, ht, hn, hrest⟩

/-- Settles O24: each of the four shifts the operand with its own function. -/
theorem shiftsOnMemory : Obligations.ShiftsOnMemory := fun _ _ =>
  ⟨fun hw => shift_mem_completes rfl (shiftLeft_toNat ..) (shiftLeft_out ..) hw (by simp [Instr.kind]) rfl,
    fun hw => shift_mem_completes rfl (shiftRight_toNat ..) (shiftRight_out ..) hw (by simp [Instr.kind]) rfl,
    fun hw => shift_mem_completes rfl (rotateLeft_toNat ..) (rotateLeft_out ..) hw (by simp [Instr.kind]) rfl,
    fun hw => shift_mem_completes rfl (rotateRight_toNat ..) (rotateRight_out ..) hw (by simp [Instr.kind]) rfl⟩

end Sys2Proof.Proofs
end

section
/-! PROOFS. Flag set and clear instructions, NOP (44_flags_nop.md): what the retirement that they share leaves, and the
held IRQ that CLI lets in (60_exceptions.md R276, D26). -/

namespace Sys2Proof.Proofs

open Sys2Proof.Machine Sys2Proof.Machine.Laws

/-! ## A flag instruction -/

/-- A one-byte instruction of two cycles that sets the flags. -/
theorem retire_flags_of_two_cycles {i : Instr} {opcode : Byte} (s : State) (f : Flags)
    (ho : i.opcode = opcode) (hl : i.length = 1) (ht : totalCycles opcode false 0 = 2) :
    retire i s.pc false 0 { s with flags := f } = .next { s with
      flags := f, latency := 1, result := some (.executed opcode (s.pc - 1) 2) } :=
  retire_as ho hl ht

/-- Settles O25: each of the six retires with its one flag replaced, NOP with the flags that it found. -/
theorem flagInstructionsTouchOneFlag : Obligations.FlagInstructionsTouchOneFlag := fun s =>
  ⟨retire_flags_of_two_cycles (i := .clc) s { s.flags with c := false } rfl rfl rfl,
    retire_flags_of_two_cycles (i := .sec) s { s.flags with c := true } rfl rfl rfl,
    retire_flags_of_two_cycles (i := .sei) s { s.flags with i := true } rfl rfl rfl,
    retire_flags_of_two_cycles (i := .cld) s { s.flags with d := false } rfl rfl rfl,
    retire_flags_of_two_cycles (i := .sed) s { s.flags with d := true } rfl rfl rfl,
    retire_flags_of_two_cycles (i := .clv) s { s.flags with v := false } rfl rfl rfl,
    retire_flags_of_two_cycles (i := .nop) s s.flags rfl rfl rfl⟩

/-! ## CLI and the held IRQ -/

theorem exec_cli (s : State) : exec .cli s = .next { s with
    flags := { s.flags with i := false }, latency := 1, result := some (.executed 0x58 (s.pc - 1) 2) } :=
  retire_flags_of_two_cycles (i := .cli) s { s.flags with i := false } rfl rfl rfl

/-- A level of nmi that the last Idle sample saw already is no edge. -/
theorem nmiTaken_of_nmi_eq {s : State} (h : s.nmi = s.nmiPrev) : s.nmiTaken = false := by
  rw [State.nmiTaken, h, Bool.and_not_self]

theorem irqTaken_of_unmasked {s : State} (hirq : s.irq = true) (hi : s.flags.i = false) : s.irqTaken = true := by
  rw [State.irqTaken, hirq, hi]
  rfl

/-- Settles O26: CLI keeps the request lines and the sample and leaves I = 0, so the next Idle tick finds no NMI edge
and an IRQ that nothing masks. -/
theorem cliLetsIrqInAtNextIdleTick : Obligations.CliLetsIrqInAtNextIdleTick := by
  refine ⟨exec_cli, fun s t hnmi hirq ht => ?_⟩
  rw [exec_cli] at ht
  cases ht
  exact ⟨_, tick_irq rfl (nmiTaken_of_nmi_eq hnmi) (irqTaken_of_unmasked hirq rfl), takeInterrupt_result _ .irq⟩

end Sys2Proof.Proofs
end

section
/-! PROOFS. Branches, jumps, subroutine call and return (45_branch_jump.md): what the operation that the eight branches
share does, the two pointer reads of JMP Indirect, and a return that finds what the call pushed. -/

namespace Sys2Proof.Proofs

open Sys2Proof.Machine Sys2Proof.Machine.Laws

/-! ## The branches -/

/-- A branch pays no page-cross cycle of its operand: its count is 2 and the cycles that it adds itself. -/
theorem branch_totalCycles {i : Instr} (hm : i.mode = .rel) (extra : Bool) (branch : Nat) :
    totalCycles i.opcode extra branch = 2 + branch := by
  have hk : i.kind ∈ branchKinds := branch_of_rel hm
  have hkind : i.kind ≠ .undefined := fun h => absurd (h ▸ hk) (by decide)
  obtain ⟨hbase, hpenalty⟩ := branch_table i.kind hk
  rw [opcode_eq hkind, hm, totalCycles_eq, hbase, hpenalty, Bool.and_false]
  rfl

/-- The target is the signed sum modulo 65536. -/
theorem branchTarget_toNat (next : Addr) (d : Byte) :
    ((branchTarget next d).1.toNat : Int) = ((next.toNat : Int) + d.toInt) % 65536 := by
  have hd : (sext16 d).toNat = (d.toInt % 65536).toNat := BitVec.toNat_ofInt ..
  rw [branchTarget, BitVec.toNat_add, hd]
  omega

theorem branchTarget_extra_iff (next : Addr) (d : Byte) :
    (branchTarget next d).2 = true ↔ (branchTarget next d).1.toNat / 256 ≠ next.toNat / 256 :=
  (pageCross_iff _ _).trans ne_comm

theorem branchOp_not_taken (i : Instr) (d : Byte) (s : State) :
    branchOp i false d s = retire i s.pc (branchTarget s.pc d).2 0 s := rfl

theorem branchOp_taken (i : Instr) (d : Byte) (s : State) : branchOp i true d s =
    retire i s.pc (branchTarget s.pc d).2 (1 + if (branchTarget s.pc d).2 then 1 else 0)
      { s with pc := (branchTarget s.pc d).1 } := rfl

/-- A branch that is not taken, one into the page of the next instruction, and one into another page. -/
theorem branch_completes {i : Instr} {cond : Bool} {opcode d : Byte} {s : State}
    (hx : exec i s = branchOp i cond d s) (hm : i.mode = .rel) (ho : i.opcode = opcode) :
    (cond = false →
      exec i s = .next { s with latency := 1, result := some (.executed opcode (s.pc - 2) 2) }) ∧
    (cond = true → ∃ target : Addr,
      (target.toNat : Int) = ((s.pc.toNat : Int) + d.toInt) % 65536 ∧
      (target.toNat / 256 = s.pc.toNat / 256 →
        exec i s = .next { s with
          pc := target, latency := 2, result := some (.executed opcode (s.pc - 2) 3) }) ∧
      (target.toNat / 256 ≠ s.pc.toNat / 256 →
        exec i s = .next { s with
          pc := target, latency := 3, result := some (.executed opcode (s.pc - 2) 4) })) := by
  have hl : i.length = 2 := by rw [Instr.length, hm]; rfl
  have ht : ∀ extra branch, totalCycles opcode extra branch = 2 + branch := ho ▸ branch_totalCycles hm
  rw [hx]
  refine ⟨?_, ?_⟩
  · rintro rfl
    rw [branchOp_not_taken]
    exact retire_as ho hl (ht _ 0)
  · rintro rfl
    refine ⟨(branchTarget s.pc d).1, branchTarget_toNat s.pc d, fun hpage => ?_, fun hpage => ?_⟩
    · have hextra : (branchTarget s.pc d).2 = false :=
        Bool.eq_false_iff.2 fun h => (branchTarget_extra_iff s.pc d).1 h hpage
      rw [branchOp_taken, hextra]
      exact retire_as ho hl (ht _ 1)
    · rw [branchOp_taken, (branchTarget_extra_iff s.pc d).2 hpage]
      exact retire_as ho hl (ht _ 2)

/-- Settles O27: each of the eight is the shared operation on its own condition. -/
theorem branchesTakenAndNotTaken : Obligations.BranchesTakenAndNotTaken := by
  intro d s
  simp only [List.forall_mem_cons]
  refine ⟨?bcc, ?bcs, ?beq, ?bne, ?bmi, ?bpl, ?bvc, ?bvs, fun _ h => absurd h List.not_mem_nil⟩
  case bcc => exact branch_completes (by rw [exec, execBcc, beq_false]) rfl rfl
  case bcs => exact branch_completes (by rw [exec, execBcs, beq_true]) rfl rfl
  case beq => exact branch_completes (by rw [exec, execBeq, beq_true]) rfl rfl
  case bne => exact branch_completes (by rw [exec, execBne, beq_false]) rfl rfl
  case bmi => exact branch_completes (by rw [exec, execBmi, beq_true]) rfl rfl
  case bpl => exact branch_completes (by rw [exec, execBpl, beq_false]) rfl rfl
  case bvc => exact branch_completes (by rw [exec, execBvc, beq_false]) rfl rfl
  case bvs => exact branch_completes (by rw [exec, execBvs, beq_true]) rfl rfl

/-! ## JMP -/

/-- The second pointer byte stands next to the first in the same page, at the start of the page after its last byte. -/
theorem join_hiByte_loByte_add_one (a : Addr) :
    join (hiByte a) (loByte a + 1) = BitVec.ofNat 16 (a.toNat / 256 * 256 + (a.toNat + 1) % 256) := by
  apply BitVec.eq_of_toNat_eq
  have := a.isLt
  rw [join_toNat, hiByte_toNat, add_one_toNat, loByte_toNat, BitVec.toNat_ofNat]
  omega

theorem exec_jmp (j : JumpOperand) (s : State) :
    exec (.jmp j) s = retire (.jmp j) s.pc false 0 { (j.resolve s).2 with pc := (j.resolve s).1 } := rfl

/-- Settles O28: the resolver gives the target, and JMP retires with it in PC. -/
theorem jmpSetsPcWithPageWrap : Obligations.JmpSetsPcWithPageWrap := by
  intro a s
  refine ⟨(exec_jmp (.abs a) s).trans (retire_as (opcode := 0x4C) (total := 3) rfl rfl rfl), ?_⟩
  rw [← join_hiByte_loByte_add_one]
  exact ⟨_, join_toNat _ _, (exec_jmp (.ind a) s).trans (retire_as (opcode := 0x6C) (total := 5) rfl rfl rfl)⟩

/-! ## JSR and RTS -/

theorem exec_jsr (a : Addr) (s : State) : exec (.jsr a) s = .next { s.pushWord (s.pc - 1) with
    pc := a, latency := 5, result := some (.executed 0x20 (s.pc - 3) 6) } := by
  rw [exec, execJsr]
  exact retire_as (opcode := 0x20) (total := 6) rfl rfl rfl

theorem exec_rts (s : State) : exec .rts s = .next { (s.afterRead (slotAbove s 1)).afterRead (slotAbove s 2) with
    sp := s.sp + 1 + 1
    pc := join ((s.afterRead (slotAbove s 1)).answer (slotAbove s 2)) (s.answer (slotAbove s 1)) + 1
    latency := 5, result := some (.executed 0x60 (s.pc - 1) 6) } := by
  rw [slotAbove_one, slotAbove_two]
  exact retire_as (i := .rts) (total := 6) rfl rfl rfl

/-- The two bytes of a word, joined again, are its number. -/
theorem hiByte_loByte_toNat (w : Addr) : (hiByte w).toNat * 256 + (loByte w).toNat = w.toNat := by
  rw [← join_toNat, join_hiByte_loByte]

theorem pc_sub_one_toNat (pc : Addr) : (pc - 1).toNat = (pc.toNat + 65535) % 65536 := by
  rw [BitVec.toNat_sub, Nat.add_comm]
  rfl

/-- Settles O29: JSR pushes the word PC - 1, and a pushed word is two writes at the slots from SP downward. -/
theorem jsrPushesLastByteAddress : Obligations.JsrPushesLastByteAddress := by
  intro a s
  have hword := (hiByte_loByte_toNat (s.pc - 1)).trans (pc_sub_one_toNat s.pc)
  have hsp : (s.sp - 1 - 1).toNat = (s.sp.toNat + 254) % 256 := by
    rw [sub_one_toNat, sub_one_toNat]
    omega
  have haccesses := pushWord_accesses s (s.pc - 1)
  rw [← slotBelow_zero, ← slotBelow_one, List.append_assoc] at haccesses
  exact ⟨_, _, _, exec_jsr a s, hword, rfl, hsp, rfl, rfl, rfl, rfl, ⟨rfl, rfl, rfl, rfl, rfl, rfl, rfl⟩,
    storesOnly_push_push _ _ rfl, haccesses, rfl, rfl⟩

/-- Settles O30: RTS is two reads at the slots above SP, then PC is their word plus 1. -/
theorem rtsPopsAndAddsOne : Obligations.RtsPopsAndAddsOne := by
  intro s u
  have hpc (hi lo : Byte) : (join hi lo + 1).toNat = (hi.toNat * 256 + lo.toNat + 1) % 65536 := by
    rw [BitVec.toNat_add, join_toNat]
    rfl
  have hsp : (s.sp + 1 + 1).toNat = (s.sp.toNat + 2) % 256 := by
    rw [add_one_toNat, add_one_toNat]
    omega
  exact ⟨_, exec_rts s, hpc _ _, hsp, rfl, rfl, rfl, rfl, fun _ => rfl, ⟨rfl, rfl, rfl, rfl, rfl, rfl, rfl⟩,
    ⟨rfl, rfl⟩, rfl, rfl⟩

/-! ## RTS after JSR -/

/-- After `n` pushes the slots above the new SP are the slots below the old one, in the opposite order. -/
theorem slotAbove_eq_slotBelow {s r : State} {n k : Nat} (hsp : r.sp.toNat = (s.sp.toNat + (256 - n)) % 256)
    (hk : k ≤ n) (hn : n ≤ 256) : slotAbove r k = slotBelow s (n - k) := by
  rw [slotAbove, slotBelow]
  congr 2
  omega

/-- A byte stored where RAM answers is what a later state with the same memory and bus reads. -/
theorem answer_of_storesOnly {s t r : State} {stores : List (Addr × Byte)} {a : Addr} {v : Byte}
    (hstores : StoresOnly s t stores) (hbus : t.bus = s.bus) (hrmem : r.mem = t.mem) (hrbus : r.bus = t.bus)
    (hmem : (a, v) ∈ stores) (hram : s.unitAt a = .ram) : r.answer a = v := by
  obtain ⟨-, hstored, -⟩ := hstores
  have hunit : r.unitAt a = .ram := by
    rw [State.unitAt, hrbus, hbus]
    exact hram
  rw [answer_ram hunit, State.peek, hrmem]
  exact hstored (a, v) hmem hram

/-- Settles O38: RTS reads back the two bytes that JSR stored, and adds the 1 that JSR took off. -/
theorem rtsUndoesJsr : Obligations.RtsUndoesJsr := by
  intro a s hram0 hram1
  obtain ⟨t, hi, lo, ht, hword, -, htsp, -, -, -, -, ⟨-, -, -, -, -, hbus, -⟩, hstores, -⟩ :=
    jsrPushesLastByteAddress a s
  refine ⟨t, ht, fun r hrsp hrmem hrbus => ?_⟩
  obtain ⟨u, hu, hupc, husp, -⟩ := rtsPopsAndAddsOne r
  rw [← hrsp] at htsp
  have hslot1 : slotAbove r 1 = slotBelow s 1 := slotAbove_eq_slotBelow (n := 2) htsp (by decide) (by decide)
  have hslot2 : slotAbove r 2 = slotBelow s 0 := slotAbove_eq_slotBelow (n := 2) htsp (by decide) (by decide)
  have hlo : r.answer (slotBelow s 1) = lo := answer_of_storesOnly hstores hbus hrmem hrbus (by simp) hram1
  have hhi : (r.afterRead (slotBelow s 1)).answer (slotBelow s 0) = hi :=
    answer_of_storesOnly hstores hbus hrmem hrbus (by simp) hram0
  rw [hslot1, hslot2, hhi, hlo] at hupc
  refine ⟨u, hu, ?_, ?_⟩ <;> apply BitVec.eq_of_toNat_eq
  · have := s.pc.isLt
    omega
  · have := s.sp.isLt
    omega

end Sys2Proof.Proofs
end

section
/-! PROOFS. Stack and system instructions (46_stack_system.md): what a push instruction and a pull instruction do, the
software exception, and a return that finds what an exception entry pushed. -/

namespace Sys2Proof.Proofs

open Sys2Proof.Machine Sys2Proof.Machine.Laws

/-! ## PHA and PHP -/

/-- A one-byte instruction of three cycles that pushes a byte. -/
theorem push_completes {i : Instr} {opcode v : Byte} {s : State} (hi : exec i s = retire i s.pc false 0 (s.push v))
    (ho : i.opcode = opcode) (hl : i.length = 1) (ht : totalCycles opcode false 0 = 3) :
    ∃ t, exec i s = .next t ∧
      t.sp.toNat = (s.sp.toNat + 255) % 256 ∧ t.a = s.a ∧ t.x = s.x ∧ t.y = s.y ∧ t.pc = s.pc ∧ t.flags = s.flags ∧
      SameSurroundings s t ∧ StoresOnly s t [(slotBelow s 0, v)] ∧
      t.accesses = s.accesses ++ [.write (slotBelow s 0) v] ∧ Retired opcode 1 3 s t := by
  have haccesses := push_accesses s v
  rw [← slotBelow_zero] at haccesses
  exact ⟨_, hi.trans (retire_as ho hl ht), sub_one_toNat s.sp, rfl, rfl, rfl, rfl, rfl,
    ⟨rfl, rfl, rfl, rfl, rfl, rfl, rfl⟩, storesOnly_push v rfl, haccesses, rfl, rfl⟩

/-- Settles O31: PHA pushes the accumulator. -/
theorem phaPushesAccumulator : Obligations.PhaPushesAccumulator := fun _ => push_completes rfl rfl rfl rfl

/-- Bits 5 and 4 of the status byte that PHP and BRK push are 32 + 16. -/
theorem statusByte_true_toNat (f : Flags) : (f.statusByte true).toNat =
    128 * bitValue f.n + 64 * bitValue f.v + 48 + 8 * bitValue f.d + 4 * bitValue f.i + 2 * bitValue f.z +
      bitValue f.c := by
  rw [statusByte_toNat]
  simp only [bitValue, if_true]

/-- Settles O32: PHP pushes the status byte with bit 4 set, whatever the stored B. -/
theorem phpPushesStatusWithBit4 : Obligations.PhpPushesStatusWithBit4 := by
  intro s
  obtain ⟨t, ht, hframe⟩ := push_completes (i := .php) (s := s) rfl rfl rfl rfl
  exact ⟨t, _, ht, statusByte_true_toNat s.flags, hframe⟩

/-! ## PLA and PLP -/

/-- PLA is one read at the slot above SP. -/
theorem exec_pla (s : State) : exec .pla s = .next { s.afterRead (slotAbove s 1) with
    a := s.answer (slotAbove s 1), flags := flagsNZ s.flags (s.answer (slotAbove s 1)).toNat, sp := s.sp + 1
    latency := 3, result := some (.executed 0x68 (s.pc - 1) 4) } := by
  rw [← setNZ_eq, slotAbove_one]
  exact retire_as (i := .pla) (total := 4) rfl rfl rfl

/-- PLP is one read at the slot above SP. -/
theorem exec_plp (s : State) : exec .plp s = .next { s.afterRead (slotAbove s 1) with
    flags := Flags.ofStatus (s.answer (slotAbove s 1)), sp := s.sp + 1
    latency := 3, result := some (.executed 0x28 (s.pc - 1) 4) } := by
  rw [slotAbove_one]
  exact retire_as (i := .plp) (total := 4) rfl rfl rfl

/-- Settles O33: the byte that PLA reads goes to A and sets N and Z. -/
theorem plaPullsAccumulator : Obligations.PlaPullsAccumulator := fun s =>
  ⟨_, exec_pla s, rfl, add_one_toNat s.sp, rfl, rfl, rfl, rfl, fun _ => rfl, ⟨rfl, rfl, rfl, rfl, rfl, rfl, rfl⟩,
    ⟨rfl, rfl⟩, rfl, rfl⟩

/-- Settles O34: the bits of the byte that PLP reads are the seven flags. -/
theorem plpRestoresAllFlags : Obligations.PlpRestoresAllFlags := by
  intro s p
  have hplp := exec_plp s
  rw [ofStatus_eq] at hplp
  exact ⟨_, hplp, rfl, rfl, rfl, rfl, rfl, rfl, rfl, add_one_toNat s.sp, rfl, rfl, rfl, rfl, fun _ => rfl,
    ⟨rfl, rfl, rfl, rfl, rfl, rfl, rfl⟩, ⟨rfl, rfl⟩, rfl, rfl⟩

/-! ## BRK and RTI -/

/-- What an exception entry leaves unchanged: A, X and Y, every flag but I, and the surroundings. -/
theorem enterException_frame (s : State) (w : Addr) (b : Bool) :
    (s.enterException w b).a = s.a ∧ (s.enterException w b).x = s.x ∧ (s.enterException w b).y = s.y ∧
      (s.enterException w b).flags = { s.flags with i := true } ∧ SameSurroundings s (s.enterException w b) :=
  ⟨enterException_a s w b, enterException_x s w b, enterException_y s w b, enterException_flags s w b,
    enterException_nmiPrev s w b, enterException_nmi s w b, enterException_irq s w b, enterException_schedule s w b,
    enterException_policy s w b, enterException_bus s w b, enterException_busPast s w b⟩

theorem enterException_sp_toNat (s : State) (w : Addr) (b : Bool) :
    (s.enterException w b).sp.toNat = (s.sp.toNat + 253) % 256 := by
  rw [enterException_sp, sub_one_toNat, sub_one_toNat, sub_one_toNat]
  omega

/-- BRK is an exception entry from the address after the padding byte. -/
theorem exec_brk (s : State) : exec .brk s = .next { { s with pc := s.pc + 1 }.enterException irqVector true with
    latency := 6, result := some (.executed 0x00 (s.pc - 1) 7) } := by
  rw [exec, execBrk]
  exact retire_as (opcode := 0x00) (total := 7) rfl rfl rfl

/-- Settles O35: the entry from PC + 1, with bit 4 set, through the vector at 0xFFFE. -/
theorem brkTakesTheException : Obligations.BrkTakesTheException := by
  intro s
  obtain ⟨hpc, haccesses, -, hstores⟩ := enterException_spec { s with pc := s.pc + 1 } irqVector true
  obtain ⟨ha, hx, hy, hflags, hsurroundings⟩ := enterException_frame { s with pc := s.pc + 1 } irqVector true
  have hsp := enterException_sp_toNat { s with pc := s.pc + 1 } irqVector true
  have hword := (hiByte_loByte_toNat (s.pc + 1)).trans (BitVec.toNat_add s.pc 1)
  have hpcNat := (congrArg BitVec.toNat hpc).trans (join_toNat _ _)
  exact ⟨_, _, _, _, _, _, exec_brk s, hword, statusByte_true_toNat s.flags, ⟨rfl, rfl⟩, hpcNat, hsp, ha, hx, hy,
    hflags, hsurroundings, hstores, haccesses, rfl, rfl⟩

/-- RTI is three reads at the slots above SP: the flags, then the two bytes of PC, low byte first. -/
theorem exec_rti (s : State) : exec .rti s = .next
    { ((s.afterRead (slotAbove s 1)).afterRead (slotAbove s 2)).afterRead (slotAbove s 3) with
      flags := Flags.ofStatus (s.answer (slotAbove s 1))
      pc := join (((s.afterRead (slotAbove s 1)).afterRead (slotAbove s 2)).answer (slotAbove s 3))
        ((s.afterRead (slotAbove s 1)).answer (slotAbove s 2))
      sp := s.sp + 1 + 1 + 1
      latency := 5, result := some (.executed 0x40 (s.pc - 1) 6) } := by
  rw [slotAbove_one, slotAbove_two, slotAbove_three]
  exact retire_as (i := .rti) (total := 6) rfl rfl rfl

/-- Settles O36: the three reads of RTI, its flags read bit by bit and its PC as the joined word. -/
theorem rtiReturnsFromException : Obligations.RtiReturnsFromException := by
  intro s s1 s2 p
  have hrti := exec_rti s
  rw [ofStatus_eq] at hrti
  have hsp : (s.sp + 1 + 1 + 1).toNat = (s.sp.toNat + 3) % 256 := by
    rw [add_one_toNat, add_one_toNat, add_one_toNat]
    omega
  exact ⟨_, hrti, rfl, rfl, rfl, rfl, rfl, rfl, rfl, join_toNat _ _, hsp, rfl, rfl, rfl, fun _ => rfl,
    ⟨rfl, rfl, rfl, rfl, rfl, rfl, rfl⟩, ⟨rfl, rfl⟩, rfl, rfl⟩

/-! ## RTI after an exception entry -/

/-- RTI reads back the three bytes that an exception entry stored: PC and SP are those before it, and the flags too,
with the stored B the bit that was pushed. -/
theorem rti_after_enterException {s r : State} {w : Addr} {b : Bool} (hram0 : s.unitAt (slotBelow s 0) = .ram)
    (hram1 : s.unitAt (slotBelow s 1) = .ram) (hram2 : s.unitAt (slotBelow s 2) = .ram)
    (hrsp : r.sp = (s.enterException w b).sp) (hrmem : r.mem = (s.enterException w b).mem)
    (hrbus : r.bus = (s.enterException w b).bus) :
    ∃ u, exec .rti r = .next u ∧ u.pc = s.pc ∧ u.sp = s.sp ∧ u.flags = { s.flags with b := b } := by
  obtain ⟨-, -, -, hstores⟩ := enterException_spec s w b
  have hbus := enterException_bus s w b
  have hsp := enterException_sp_toNat s w b
  rw [← hrsp] at hsp
  have hslot1 : slotAbove r 1 = slotBelow s 2 := slotAbove_eq_slotBelow (n := 3) hsp (by decide) (by decide)
  have hslot2 : slotAbove r 2 = slotBelow s 1 := slotAbove_eq_slotBelow (n := 3) hsp (by decide) (by decide)
  have hslot3 : slotAbove r 3 = slotBelow s 0 := slotAbove_eq_slotBelow (n := 3) hsp (by decide) (by decide)
  have hstatus : r.answer (slotBelow s 2) = s.flags.statusByte b :=
    answer_of_storesOnly hstores hbus hrmem hrbus (by simp) hram2
  have hlo : (r.afterRead (slotBelow s 2)).answer (slotBelow s 1) = loByte s.pc :=
    answer_of_storesOnly hstores hbus hrmem hrbus (by simp) hram1
  have hhi : ((r.afterRead (slotBelow s 2)).afterRead (slotBelow s 1)).answer (slotBelow s 0) = hiByte s.pc :=
    answer_of_storesOnly hstores hbus hrmem hrbus (by simp) hram0
  have hrti := exec_rti r
  rw [hslot1, hslot2, hslot3, hstatus, hlo, hhi, ofStatus_statusByte, join_hiByte_loByte] at hrti
  refine ⟨_, hrti, rfl, ?_, rfl⟩
  simp only [hrsp, enterException_sp, BitVec.sub_add_cancel]

/-- Settles O39: BRK is an entry from the address after the padding byte that pushes bit 4 as 1. -/
theorem rtiUndoesBrk : Obligations.RtiUndoesBrk := fun s hram0 hram1 hram2 =>
  ⟨_, exec_brk s, fun _ hrsp hrmem hrbus =>
    rti_after_enterException (s := { s with pc := s.pc + 1 }) (w := irqVector) hram0 hram1 hram2 hrsp hrmem hrbus⟩

end Sys2Proof.Proofs
end

section
/-! PROOFS. The execution engine (49_execution_engine.md): what a tick does, what an instruction costs, and that every
step answers a next state. -/

namespace Sys2Proof.Proofs

open Sys2Proof.Machine Sys2Proof.Machine.Laws

/-! ## A Running tick -/

/-- Settles O42: a tick with latency not 0 counts down and does nothing else. -/
theorem runningTickOnlyCounts : Obligations.RunningTickOnlyCounts :=
  fun s hrun => ⟨s.latency - 1, by bv_omega, tick_running hrun⟩

/-- The state after `j` silent Running ticks with no move of the host: latency and the result count, and the bus's past
takes the last transactions and one empty turn for each tick (R241; log entry 3). -/
def waited (j : Nat) (s : State) : State :=
  { s with
    latency := BitVec.ofNat 3 (s.latency.toNat - j)
    accesses := []
    busPast := s.busSeen ++ List.replicate j (.turn [])
    result := some (.counted (BitVec.ofNat 3 (s.latency.toNat - j))) }

theorem waited_latency_toNat (j : Nat) (s : State) : (waited j s).latency.toNat = s.latency.toNat - j := by
  have := s.latency.isLt
  simp only [waited, BitVec.toNat_ofNat]
  omega

theorem waited_busSeen (j : Nat) (s : State) : (waited j s).busSeen = s.busSeen ++ List.replicate j (.turn []) :=
  List.append_nil _

theorem waited_waited_one (j : Nat) (s : State) : waited j (waited 1 s) = waited (j + 1) s := by
  have hlat : s.latency.toNat - 1 - j = s.latency.toNat - (j + 1) := by omega
  rw [waited, waited_latency_toNat, waited_busSeen, hlat, List.append_assoc, ← List.replicate_add, Nat.add_comm 1 j]
  rfl

theorem step_running {s : State} (hs : s.schedule = []) (hrun : s.latency ≠ 0) : step s = .next (waited 1 s) := by
  have hlat : BitVec.ofNat 3 (s.latency.toNat - 1) = s.latency - 1 := by bv_omega
  have hturn : s.hostTurn.latency ≠ 0 := by rwa [hostTurn_nil hs]
  rw [step, tick_running hturn, hostTurn_nil hs, waited, hlat]
  rfl

theorem steps_succ {s t : State} (h : step s = .next t) (k : Nat) : steps (k + 1) s = steps k t := by
  rw [steps, h]

/-- Settles O43: by induction on the number of ticks; the first of them leaves a state that waits for the others. -/
theorem instructionOccupiesItsCycles : Obligations.InstructionOccupiesItsCycles := by
  intro s j hs h1 hj
  change steps j s = .next (waited j s)
  induction j, h1 using Nat.le_induction generalizing s with
  | base =>
    have hrun : s.latency ≠ 0 := by bv_omega
    exact steps_succ (step_running hs hrun) 0
  | succ j h1 ih =>
    have hrun : s.latency ≠ 0 := by bv_omega
    have hwait : j ≤ (waited 1 s).latency.toNat := by
      rw [waited_latency_toNat]
      omega
    rw [steps_succ (step_running hs hrun), ih (waited 1 s) hs hwait, waited_waited_one]

/-! ## What an Idle tick chooses -/

theorem nmiTaken_iff (s : State) : s.nmiTaken = true ↔ s.nmi = true ∧ s.nmiPrev = false := by
  rw [State.nmiTaken, Bool.and_eq_true, Bool.not_eq_true']

theorem irqTaken_iff (s : State) : s.irqTaken = true ↔ s.irq = true ∧ s.flags.i = false := by
  rw [State.irqTaken, Bool.and_eq_true, Bool.not_eq_true']

theorem nmiTaken_eq_false {s : State} (h : ¬ (s.nmi = true ∧ s.nmiPrev = false)) : s.nmiTaken = false :=
  Bool.eq_false_iff.2 (mt (nmiTaken_iff s).1 h)

theorem irqTaken_eq_false {s : State} (h : ¬ (s.irq = true ∧ s.flags.i = false)) : s.irqTaken = false :=
  Bool.eq_false_iff.2 (mt (irqTaken_iff s).1 h)

/-- Settles O44: the three Idle cases of the tick, each under its condition on the lines. -/
theorem idleTickChoosesOne : Obligations.IdleTickChoosesOne := by
  intro s hidle
  refine ⟨fun hnmi hprev => ?_, fun hedge hirq hi => ?_, fun hedge hmask => ?_⟩
  · rw [tick_nmi hidle ((nmiTaken_iff s).2 ⟨hnmi, hprev⟩), State.sampleLines, hnmi]
  · exact tick_irq hidle (nmiTaken_eq_false hedge) (irqTaken_of_unmasked hirq hi)
  · exact tick_fetch hidle (nmiTaken_eq_false hedge) (irqTaken_eq_false hmask)

/-! ## The instruction that an Idle tick performs -/

/-- The bytes that the bus answers at PC decode to the instruction that is fetched. -/
theorem decode_nextBytes (s : State) : ∃ rest, decode s.nextBytes = .ok (s.fetch.1, rest) := by
  have hbytes : s.nextBytes = [s.fetchByte.1, (s.afterFetch 1).fetchByte.1, (s.afterFetch 2).fetchByte.1] := rfl
  rw [hbytes, State.fetch]
  dsimp only
  cases h : slotOf s.fetchByte.1 with
  | undef => exact ⟨_, decode_undef h _⟩
  | one i => exact ⟨_, decode_one h _⟩
  | two f => exact ⟨_, decode_two h _ _⟩
  | three f => exact ⟨_, decode_three h _ _ _⟩

/-- The fetch yields what the bytes at PC decode to, and reads as many bytes as that instruction has. -/
theorem fetch_eq_of_decode {s : State} {i : Instr} {rest : List Byte} (h : decode s.nextBytes = .ok (i, rest)) :
    s.fetch = (i, s.afterFetch i.length) := by
  obtain ⟨rest', h'⟩ := decode_nextBytes s
  cases h.symm.trans h'
  exact Prod.ext rfl (fetch_fits s).1

/-- Settles O41: the tick after the host's turn fetches, and the fetch is what the bytes at PC decode to. -/
theorem stepRunsDecodedInstruction : Obligations.StepRunsDecodedInstruction := by
  refine ⟨?_, fun s hs => hostTurn_nil hs⟩
  intro s i rest h g hidle hnmi hirq hdecode
  have hfetch : h.sampleLines.fetch = (i, g.afterFetch i.length) := fetch_eq_of_decode hdecode
  rw [step, tick_fetch hidle hnmi hirq, hfetch]

/-! ## The frame of a tick -/

theorem exec_sameSurroundings {i : Instr} {s t : State} (h : exec i s = .next t) : SameSurroundings s t := by
  obtain ⟨_, ⟨hs, -⟩, -⟩ := exec_busFrame h
  exact hs

theorem fetch_sameSurroundings (s : State) : SameSurroundings s s.fetch.2 := by
  obtain ⟨_, ⟨hs, -⟩, -⟩ := busFrame_afterFetch s s.fetch.1.length
  rwa [(fetch_fits s).1]

/-- Settles O45: an Idle tick samples the line first, and neither an entry nor an instruction changes the sample. -/
theorem nmiSampledOnlyWhenIdle : Obligations.NmiSampledOnlyWhenIdle := by
  intro s t h
  rcases tick_cases s with ⟨hrun, ht⟩ | ⟨hidle, -, ht⟩ | ⟨hidle, -, -, ht⟩ | ⟨hidle, -, -, ht⟩
  · cases ht.symm.trans h
    exact ⟨fun hidle => absurd hidle hrun, fun _ => countDown_nmiPrev s⟩
  · cases ht.symm.trans h
    exact ⟨fun _ => takeInterrupt_nmiPrev s.sampleLines .nmi, fun hrun => absurd hidle hrun⟩
  · cases ht.symm.trans h
    exact ⟨fun _ => takeInterrupt_nmiPrev s.sampleLines .irq, fun hrun => absurd hidle hrun⟩
  · obtain ⟨hexec, -⟩ := exec_sameSurroundings (ht.symm.trans h)
    obtain ⟨hfetch, -⟩ := fetch_sameSurroundings s.sampleLines
    exact ⟨fun _ => hexec.trans hfetch, fun hrun => absurd hidle hrun⟩

/-! ## What an instruction costs -/

/-- A retirement reports the total count and leaves latency one less. -/
theorem retired_of_retire {i : Instr} {s u : State} {extra : Bool} {branch : Nat} (hk : i.kind ≠ .undefined)
    (hb : branch = 0 ∨ (branch ≤ 2 ∧ i.mode = .rel)) (hx : exec i s = retire i s.pc extra branch u) :
    ∃ t, exec i s = .next t ∧ Retired i.opcode i.length (totalCycles i.opcode extra branch) s t := by
  obtain ⟨h2, h7⟩ := total_bounds hk extra branch hb
  exact ⟨_, hx.trans (retire_eq ..), retired_of s u rfl (by omega) (by omega)⟩

/-- Every instruction but UNDEFINED reports a total count, with extra cycles of its own for a branch only. -/
theorem exec_retired {i : Instr} {s t : State} (h : exec i s = .next t) (hk : i.kind ≠ .undefined) :
    ∃ (extra : Bool) (branch : Nat), (branch = 0 ∨ (branch ≤ 2 ∧ i.mode = .rel)) ∧
      Retired i.opcode i.length (totalCycles i.opcode extra branch) s t := by
  obtain ⟨extra, branch, u, -, hx, -, -, hb⟩ := exec_retires i s hk
  obtain ⟨t', ht', hr⟩ := retired_of_retire hk hb hx
  cases h.symm.trans ht'
  exact ⟨extra, branch, hb, hr⟩

/-- Settles O59: the total of every retirement is within the bounds of the tables. -/
theorem everyInstructionCostsTwoToSeven : Obligations.EveryInstructionCostsTwoToSeven := by
  intro i s t h hk
  obtain ⟨extra, branch, hb, hr⟩ := exec_retired h hk
  obtain ⟨h2, h7⟩ := total_bounds hk extra branch hb
  exact ⟨_, h2, h7, hr⟩

/-- The kinds that R247 charges a page cross. -/
def pageCrossKinds : List Kind := [.adc, .and, .cmp, .eor, .lda, .ldx, .ldy, .ora, .sbc]

/-- Each row of these kinds in a mode that can signal the extra cycle is in the table of R247. -/
theorem pagePenalty_of_crossMode : ∀ k ∈ pageCrossKinds, ∀ m ∈ k.modes, m ∈ crossModes →
    pagePenalty (opcodeOf k m) = true := by
  decide

/-- Without a branch's cycles the total is the base count, or one more for a signal that the opcode byte pays for. -/
theorem totalCycles_cases (opcode : Byte) (extra : Bool) :
    totalCycles opcode extra 0 = baseCycles opcode ∨
      (pagePenalty opcode = true ∧ totalCycles opcode extra 0 = baseCycles opcode + 1) := by
  rw [totalCycles_eq]
  cases hp : pagePenalty opcode with
  | false => exact .inl (by rw [Bool.and_false]; rfl)
  | true =>
    cases extra with
    | false => exact .inl rfl
    | true => exact .inr ⟨rfl, rfl⟩

/-- Of these kinds every signal of the resolver is paid for, because only the indexed modes give one. -/
theorem totalCycles_of_pageCrossKind {i : Instr} (hk : i.kind ∈ pageCrossKinds) (hw : i.wf = true) {extra : Bool}
    (he : extra = true → i.mode ∈ crossModes) :
    totalCycles i.opcode extra 0 = baseCycles i.opcode + bitValue extra := by
  have hkind : i.kind ≠ .undefined := fun h => absurd (h ▸ hk) (by decide)
  rw [totalCycles_eq]
  cases extra with
  | false => rfl
  | true =>
    rw [opcode_eq hkind, pagePenalty_of_crossMode i.kind hk i.mode (mode_of_wf hw) (he rfl)]
    rfl

/-- An instruction of these kinds that retires with its operand's signal. -/
theorem pageCross_completes {i : Instr} {o : Source} {s u : State}
    (hx : exec i s = retire i s.pc (o.load s).extra 0 u) (hk : i.kind ∈ pageCrossKinds) (hm : i.mode = o.mode)
    (hw : i.wf = true) :
    ∃ t, exec i s = .next t ∧
      Retired i.opcode i.length (baseCycles i.opcode + bitValue (o.load s).extra) s t := by
  have hkind : i.kind ≠ .undefined := fun h => absurd (h ▸ hk) (by decide)
  rw [← totalCycles_of_pageCrossKind hk hw fun he => hm ▸ load_extra_mode he]
  exact retired_of_retire hkind (.inl rfl) hx

/-- Settles O58: a retirement without branch cycles costs the base count or one more, the latter by the table of R247;
each of the nine kinds retires with its operand's signal. -/
theorem pageCrossCostsOnlyReadInstructions : Obligations.PageCrossCostsOnlyReadInstructions := by
  constructor
  · intro i s t h hk hm
    obtain ⟨extra, branch, hb, hr⟩ := exec_retired h hk
    obtain rfl : branch = 0 := hb.resolve_right fun hrel => hm hrel.2
    rcases totalCycles_cases i.opcode extra with htotal | ⟨hp, htotal⟩ <;> rw [htotal] at hr
    · exact .inl hr
    · rw [opcode_eq hk] at hp
      obtain ⟨hkinds, hmodes⟩ := penalty_table i.kind hk i.mode (mem_allModes _) hp
      exact .inr ⟨hkinds, hmodes, hr⟩
  · intro o s
    simp only [List.forall_mem_cons]
    refine ⟨?adc, ?and, ?cmp, ?eor, ?lda, ?ldx, ?ldy, ?ora, ?sbc, fun _ h => absurd h List.not_mem_nil⟩
    case adc => exact pageCross_completes (exec_adc o s) (show Kind.adc ∈ _ by decide) rfl
    case and => exact pageCross_completes (exec_and o s) (show Kind.and ∈ _ by decide) rfl
    case cmp => exact pageCross_completes (exec_cmp o s) (show Kind.cmp ∈ _ by decide) rfl
    case eor => exact pageCross_completes (exec_eor o s) (show Kind.eor ∈ _ by decide) rfl
    case lda => exact pageCross_completes (exec_lda o s) (show Kind.lda ∈ _ by decide) rfl
    case ldx => exact pageCross_completes (exec_ldx o s) (show Kind.ldx ∈ _ by decide) rfl
    case ldy => exact pageCross_completes (exec_ldy o s) (show Kind.ldy ∈ _ by decide) rfl
    case ora => exact pageCross_completes (exec_ora o s) (show Kind.ora ∈ _ by decide) rfl
    case sbc => exact pageCross_completes (exec_sbc o s) (show Kind.sbc ∈ _ by decide) rfl

/-! ## No instruction stops the machine -/

/-- Settles O37: UNDOCUMENTED being none, the meaning of UNDEFINED is a case split on the policy. -/
theorem undefinedByteReportsIllegalOpcode : Obligations.UndefinedByteReportsIllegalOpcode := by
  intro opcode s
  rw [exec, execUndefined_eq]
  constructor <;> intro hp <;> rw [hp]

theorem hostMove_policy (s : State) (m : HostMove) : (s.hostMove m).policy = s.policy := by
  cases m <;> rfl

theorem hostMoves_policy (s : State) (moves : List HostMove) :
    (moves.foldl State.hostMove s).policy = s.policy := by
  induction moves generalizing s with
  | nil => rfl
  | cons m rest ih => exact (ih (s.hostMove m)).trans (hostMove_policy s m)

theorem hostTurn_policy (s : State) : s.hostTurn.policy = s.policy :=
  hostMoves_policy { s with accesses := [], busPast := _, schedule := s.schedule.tail } _

/-- Where the owning system goes on after IllegalOpcode, every meaning answers a next state. -/
theorem exec_completes {s : State} (hp : s.policy = .report) (i : Instr) : ∃ t, exec i s = .next t := by
  rcases exec_cases i s with ⟨-, extra, branch, u, -, hx, -⟩ | ⟨opcode, -, -, hx⟩ | ⟨opcode, -, hhalt, -⟩
  · exact ⟨_, hx.trans (retire_eq ..)⟩
  · exact ⟨_, hx⟩
  · cases hp.symm.trans hhalt

theorem fetch_exec_completes {s : State} (hp : s.policy = .report) :
    ∃ t, exec s.fetch.1 s.fetch.2 = .next t ∧ t.policy = .report := by
  obtain ⟨-, -, -, -, hfetch, -⟩ := fetch_sameSurroundings s
  have hfetched : s.fetch.2.policy = .report := hfetch.trans hp
  obtain ⟨t, ht⟩ := exec_completes hfetched s.fetch.1
  obtain ⟨-, -, -, -, hexec, -⟩ := exec_sameSurroundings ht
  exact ⟨t, ht, hexec.trans hfetched⟩

/-- Under the policy report a tick answers a next state, and the policy stays. -/
theorem tick_completes {s : State} (hp : s.policy = .report) : ∃ t, tick s = .next t ∧ t.policy = .report := by
  rcases tick_cases s with ⟨-, ht⟩ | ⟨-, -, ht⟩ | ⟨-, -, -, ht⟩ | ⟨-, -, -, ht⟩
  · exact ⟨_, ht, hp⟩
  · exact ⟨_, ht, (takeInterrupt_policy _ .nmi).trans hp⟩
  · exact ⟨_, ht, (takeInterrupt_policy _ .irq).trans hp⟩
  · rw [ht]
    exact fetch_exec_completes hp

/-- Settles O60: the host's turn keeps the policy, and under it the tick answers a next state in each of its cases. -/
theorem noInstructionStopsTheMachine : Obligations.NoInstructionStopsTheMachine :=
  fun s hp => tick_completes ((hostTurn_policy s).trans hp)

end Sys2Proof.Proofs
end

section
/-! PROOFS. The interrupt entries (60_exceptions.md) and reset (70_reset_and_hazards.md). -/

namespace Sys2Proof.Proofs

open Sys2Proof.Machine Sys2Proof.Machine.Laws

/-! ## The interrupt entries -/

/-- Settles O40: an interrupt entry is an exception entry that pushes bit 4 as 0. -/
theorem rtiUndoesInterruptEntry : Obligations.RtiUndoesInterruptEntry :=
  fun kind s hram0 hram1 hram2 _ hrsp hrmem hrbus =>
    rti_after_enterException (w := kind.vector) (b := false) hram0 hram1 hram2
      (hrsp.trans (takeInterrupt_sp s kind)) (hrmem.trans (takeInterrupt_mem s kind)) hrbus

theorem hiByte_eq_ofNat (w : Addr) : hiByte w = BitVec.ofNat 8 (w.toNat / 256) := by
  apply BitVec.eq_of_toNat_eq
  have := w.isLt
  rw [hiByte_toNat, BitVec.toNat_ofNat]
  omega

theorem loByte_eq_ofNat (w : Addr) : loByte w = BitVec.ofNat 8 (w.toNat % 256) := by
  apply BitVec.eq_of_toNat_eq
  rw [loByte_toNat, BitVec.toNat_ofNat, Nat.mod_mod]

/-- Bits 5 and 4 of the status byte that an interrupt entry pushes are 32 + 0. -/
theorem statusByte_false_toNat (f : Flags) : (f.statusByte false).toNat =
    128 * bitValue f.n + 64 * bitValue f.v + 32 + 8 * bitValue f.d + 4 * bitValue f.i + 2 * bitValue f.z +
      bitValue f.c := by
  rw [statusByte_toNat]
  simp [bitValue]

theorem interruptVector_eq (kind : InterruptKind) : (if kind = .nmi then 0xFFFA else 0xFFFE) = kind.vector := by
  cases kind <;> rfl

/-- Settles O46: the exception entry with bit 4 clear, through the vector of the line, and its retirement. -/
theorem interruptEntrySavesPcAndStatus : Obligations.InterruptEntrySavesPcAndStatus := by
  intro kind s
  rw [interruptVector_eq, ← hiByte_eq_ofNat, ← loByte_eq_ofNat]
  obtain ⟨hpc, haccesses, -, hstores⟩ := enterException_spec s kind.vector false
  obtain ⟨ha, hx, hy, hflags, hsurroundings⟩ := enterException_frame s kind.vector false
  have hsp := enterException_sp_toNat s kind.vector false
  have hpcNat := (congrArg BitVec.toNat hpc).trans (join_toNat _ _)
  exact ⟨_, _, _, statusByte_false_toNat s.flags, ⟨rfl, rfl⟩, hpcNat, hsp, ha, hx, hy, hflags, hsurroundings, hstores,
    haccesses, rfl, rfl⟩

/-! ## Reset -/

/-- The two reads of the reset vector, after which the registers have the reset values. -/
theorem resetWith_eq (s : State) (r : ResetValues) : s.resetWith r =
    { (s.afterRead 0xFFFC).afterRead 0xFFFD with
      a := r.a, x := r.x, y := r.y, sp := r.sp
      pc := join ((s.afterRead 0xFFFC).answer 0xFFFD) (s.answer 0xFFFC)
      flags := { n := r.n, v := r.v, b := r.b, d := r.d, i := r.i, z := r.z, c := r.c }
      latency := 0, nmiPrev := false, result := none } := rfl

/-- Settles O47: two reads, then the reset values; the host's reset takes the defaults of R7. -/
theorem resetLoadsVectorAndDefaults : Obligations.ResetLoadsVectorAndDefaults := by
  refine ⟨?_, fun s => rfl⟩
  intro s r low high t
  have ht : t = _ := resetWith_eq s r
  have hpc : t.pc.toNat = high.toNat * 256 + low.toNat := by rw [ht, join_toNat]
  have haccesses : t.accesses = s.accesses ++ [.read 0xFFFC low, .read 0xFFFD high] := by
    rw [ht, afterRead_accesses, afterRead_accesses, List.append_assoc, List.singleton_append]
  exact ⟨rfl, rfl, rfl, rfl, rfl, rfl, rfl, hpc, haccesses, rfl, rfl, rfl, rfl, rfl, rfl, rfl⟩

end Sys2Proof.Proofs
end
